-- ==== Sys2Proof/Word.lean ====
section
/-! DEFINITION. The word types of the MFHD and the two enumerations its instruction syntax uses. -/

namespace Sys2Proof

/-- A 32-bit header word W (00_scope.md R12, 30_encoding.md R70). -/
abbrev Word := BitVec 32

/-- A byte of the host's stream; bit 0 is its least significant bit (00_scope.md R11). -/
abbrev Byte := BitVec 8

/-- A 16-bit value: kbps, Hz and the two lengths (00_scope.md R10). -/
abbrev Half := BitVec 16

/-- A single bit (00_scope.md R11). -/
abbrev Bit := BitVec 1

/-- The MPEG version (10_state.md R25, 41_header_decode.md R123). `reserved` is decoded and then always
rejected (00_scope.md R3). -/
inductive Version where
  | mpeg1
  | mpeg2
  | mpeg25
  | reserved
  deriving DecidableEq, Repr

/-- The layer (10_state.md R25). The code '00' is no layer (41_header_decode.md R124). -/
inductive Layer where
  | layerI
  | layerII
  | layerIII
  deriving DecidableEq, Repr

end Sys2Proof
end

