-- ==== Sys2Proof/Syntax.lean ====
section
/-! DEFINITION. The instructions: one constructor for each row of spec/opcode_table.json. The MFHD has no instruction
set (00_scope.md R2); its operations are the three cycles, and its encodings are the fifteen classes of the header word. -/

namespace Sys2Proof

/-- The header fields that no class condition reads (30_encoding.md R71, R74): 11 free bits. -/
structure HdrRest where
  /-- PROT, W[16]. -/
  prot : Bit
  /-- PAD, W[9]. -/
  pad : Bit
  /-- PRIV, W[8]. -/
  priv : Bit
  /-- MODE, W[7:6]. -/
  mode : BitVec 2
  /-- MEXT, W[5:4]. -/
  mext : BitVec 2
  /-- COPY, W[3]. -/
  copy : Bit
  /-- ORIG, W[2]. -/
  orig : Bit
  /-- EMPH, W[1:0]. -/
  emph : BitVec 2
  deriving DecidableEq, Repr

/-- An operation of the MFHD, one constructor per row of spec/opcode_table.json. The first three are the cycles
(format `cmd`, 40_interface_ops.md R100). Each of the others is a DECODE cycle whose word is of that class (format
`hdr32`, 30_encoding.md R74); its operands are the fields the class does not fix. -/
inductive Instr where
  /-- RESET: a cycle with rst = 1 (R103). -/
  | reset
  /-- DECODE: a cycle with rst = 0, in_valid = 1 and in_hdr = w (R101). -/
  | decode (w : Word)
  /-- IDLE: a cycle with rst = 0, in_valid = 0 (R102). -/
  | idle
  /-- HDR_BADSYNC: W[31:21] is not 0x7FF (R122). -/
  | hdrBadsync (sync : BitVec 11) (ver : BitVec 2) (layer : BitVec 2) (bri : BitVec 4) (sri : BitVec 2) (m : HdrRest)
  /-- HDR_BADLAYER: W[18:17] = '00' (R124). -/
  | hdrBadlayer (ver : Version) (bri : BitVec 4) (sri : BitVec 2) (m : HdrRest)
  /-- HDR_BADBITRATE: W[15:12] = 15 (R126). -/
  | hdrBadbitrate (ver : Version) (layer : Layer) (sri : BitVec 2) (m : HdrRest)
  /-- HDR_BADSR_RESVER: W[20:19] = '01' (R131). -/
  | hdrBadsrResver (layer : Layer) (bri : BitVec 4) (sri : BitVec 2) (m : HdrRest)
  /-- HDR_BADSR_IDX3: W[11:10] = 3 (R129). -/
  | hdrBadsrIdx3 (ver : Version) (layer : Layer) (bri : BitVec 4) (m : HdrRest)
  /-- HDR_FREEFMT: W[15:12] = 0 (R127). -/
  | hdrFreefmt (ver : Version) (layer : Layer) (sri : BitVec 2) (m : HdrRest)
  /-- HDR_M1_L1: Mpeg1, LayerI, indexed bitrate (R121). -/
  | hdrM1L1 (bri : BitVec 4) (sri : BitVec 2) (m : HdrRest)
  /-- HDR_M1_L2: Mpeg1, LayerII, indexed bitrate (R121). -/
  | hdrM1L2 (bri : BitVec 4) (sri : BitVec 2) (m : HdrRest)
  /-- HDR_M1_L3: Mpeg1, LayerIII, indexed bitrate (R121). -/
  | hdrM1L3 (bri : BitVec 4) (sri : BitVec 2) (m : HdrRest)
  /-- HDR_M2_L1: Mpeg2, LayerI, indexed bitrate (R121). -/
  | hdrM2L1 (bri : BitVec 4) (sri : BitVec 2) (m : HdrRest)
  /-- HDR_M2_L2: Mpeg2, LayerII, indexed bitrate (R121). -/
  | hdrM2L2 (bri : BitVec 4) (sri : BitVec 2) (m : HdrRest)
  /-- HDR_M2_L3: Mpeg2, LayerIII, indexed bitrate (R121). -/
  | hdrM2L3 (bri : BitVec 4) (sri : BitVec 2) (m : HdrRest)
  /-- HDR_M25_L1: Mpeg2_5, LayerI, indexed bitrate (R121). -/
  | hdrM25L1 (bri : BitVec 4) (sri : BitVec 2) (m : HdrRest)
  /-- HDR_M25_L2: Mpeg2_5, LayerII, indexed bitrate (R121). -/
  | hdrM25L2 (bri : BitVec 4) (sri : BitVec 2) (m : HdrRest)
  /-- HDR_M25_L3: Mpeg2_5, LayerIII, indexed bitrate (R121). -/
  | hdrM25L3 (bri : BitVec 4) (sri : BitVec 2) (m : HdrRest)
  deriving DecidableEq, Repr

end Sys2Proof
end

