-- ==== Sys2Proof/WellFormed.lean ====
section
/-! DEFINITION. Which terms of `Instr` are members of their row of spec/opcode_table.json: the conditions of the
class map (30_encoding.md R74) that the operand types do not already carry. -/

namespace Sys2Proof

/-- The indices of an indexed header: 'words with W[15:12] in 1..14 and W[11:10] in 0..2' (R74). -/
def indexedOk (bri : BitVec 4) (sri : BitVec 2) : Bool :=
  bri != 0 && bri != 15 && sri != 3

/-- The class conditions of R74, each with 'all earlier conditions fail'. -/
def wellFormed : Instr → Bool
  | .reset => true
  | .decode _ => true
  | .idle => true
  | .hdrBadsync sync _ _ _ _ _ => sync != 0x7FF
  | .hdrBadlayer _ _ _ _ => true
  | .hdrBadbitrate _ _ _ _ => true
  | .hdrBadsrResver _ bri _ _ => bri != 15
  | .hdrBadsrIdx3 ver _ bri _ => ver != .reserved && bri != 15
  | .hdrFreefmt ver _ sri _ => ver != .reserved && sri != 3
  | .hdrM1L1 bri sri _ => indexedOk bri sri
  | .hdrM1L2 bri sri _ => indexedOk bri sri
  | .hdrM1L3 bri sri _ => indexedOk bri sri
  | .hdrM2L1 bri sri _ => indexedOk bri sri
  | .hdrM2L2 bri sri _ => indexedOk bri sri
  | .hdrM2L3 bri sri _ => indexedOk bri sri
  | .hdrM25L1 bri sri _ => indexedOk bri sri
  | .hdrM25L2 bri sri _ => indexedOk bri sri
  | .hdrM25L3 bri sri _ => indexedOk bri sri

/-- The term is a member of its row. -/
abbrev WellFormed (i : Instr) : Prop := wellFormed i = true

end Sys2Proof
end

