-- ==== Sys2Proof/Decode.lean ====
section
/-! DEFINITION. Decoding and encoding: the fields of the header word (30_encoding.md R71, R72), the codes of version and
layer (R73), the class map (R74), the cycle selection (40_interface_ops.md R100), byte order (20_memory.md R52), and
the encoder written from the same tables. -/

namespace Sys2Proof

/-! ### The fields of a header word (R71, R72) -/

/-- SYNC = W[31:21]. -/
def fSync (w : Word) : BitVec 11 := w.extractLsb' 21 11
/-- VER = W[20:19]. -/
def fVer (w : Word) : BitVec 2 := w.extractLsb' 19 2
/-- LAYER = W[18:17]. -/
def fLayer (w : Word) : BitVec 2 := w.extractLsb' 17 2
/-- PROT = W[16]. -/
def fProt (w : Word) : Bit := w.extractLsb' 16 1
/-- BRI = W[15:12]. -/
def fBri (w : Word) : BitVec 4 := w.extractLsb' 12 4
/-- SRI = W[11:10]. -/
def fSri (w : Word) : BitVec 2 := w.extractLsb' 10 2
/-- PAD = W[9]. -/
def fPad (w : Word) : Bit := w.extractLsb' 9 1
/-- PRIV = W[8]. -/
def fPriv (w : Word) : Bit := w.extractLsb' 8 1
/-- MODE = W[7:6]. -/
def fMode (w : Word) : BitVec 2 := w.extractLsb' 6 2
/-- MEXT = W[5:4]. -/
def fMext (w : Word) : BitVec 2 := w.extractLsb' 4 2
/-- COPY = W[3]. -/
def fCopy (w : Word) : Bit := w.extractLsb' 3 1
/-- ORIG = W[2]. -/
def fOrig (w : Word) : Bit := w.extractLsb' 2 1
/-- EMPH = W[1:0]. -/
def fEmph (w : Word) : BitVec 2 := w.extractLsb' 0 2

/-- The fields no class condition reads. -/
def fRest (w : Word) : HdrRest :=
  { prot := fProt w, pad := fPad w, priv := fPriv w, mode := fMode w, mext := fMext w,
    copy := fCopy w, orig := fOrig w, emph := fEmph w }

/-- The word of the pattern `11111111 111vvllp bbbbssdr mmxxcoee` (R71) for any sync field: the fields concatenated, most
significant first. With sync = 0x7FF this is HDR(...) of R82. -/
def hdrWord (sync : BitVec 11) (ver layer : BitVec 2) (bri : BitVec 4) (sri : BitVec 2) (m : HdrRest) : Word :=
  sync ++ ver ++ layer ++ m.prot ++ bri ++ sri ++ m.pad ++ m.priv ++ m.mode ++ m.mext ++ m.copy ++ m.orig ++ m.emph

/-! ### Codes of version and layer (R73, R123, R124) -/

/-- '00' Mpeg2_5, '01' Reserved, '10' Mpeg2, '11' Mpeg1. -/
def versionOf (c : BitVec 2) : Version :=
  if c = 0b00 then .mpeg25 else if c = 0b01 then .reserved else if c = 0b10 then .mpeg2 else .mpeg1

/-- The code of a version (R29). -/
def versionCode : Version → BitVec 2
  | .mpeg25 => 0b00
  | .reserved => 0b01
  | .mpeg2 => 0b10
  | .mpeg1 => 0b11

/-- '01' LayerIII, '10' LayerII, '11' LayerI; '00' is invalid. -/
def layerOf (c : BitVec 2) : Option Layer :=
  if c = 0b00 then none else if c = 0b01 then some .layerIII else if c = 0b10 then some .layerII else some .layerI

/-- The code of a layer (R29). -/
def layerCode : Layer → BitVec 2
  | .layerIII => 0b01
  | .layerII => 0b10
  | .layerI => 0b11

/-! ### The class map (R74) -/

/-- Classes 7 to 15: the pair of version and layer selects the class. A Reserved version never comes this far in the map;
for it this answers the class the earlier condition gives, HDR_BADSR_RESVER. -/
def indexedClass (ver : Version) (layer : Layer) (bri : BitVec 4) (sri : BitVec 2) (m : HdrRest) : Instr :=
  match ver, layer with
  | .mpeg1, .layerI => .hdrM1L1 bri sri m
  | .mpeg1, .layerII => .hdrM1L2 bri sri m
  | .mpeg1, .layerIII => .hdrM1L3 bri sri m
  | .mpeg2, .layerI => .hdrM2L1 bri sri m
  | .mpeg2, .layerII => .hdrM2L2 bri sri m
  | .mpeg2, .layerIII => .hdrM2L3 bri sri m
  | .mpeg25, .layerI => .hdrM25L1 bri sri m
  | .mpeg25, .layerII => .hdrM25L2 bri sri m
  | .mpeg25, .layerIII => .hdrM25L3 bri sri m
  | .reserved, layer => .hdrBadsrResver layer bri sri m

/-- The class of a header word: 'the classes are tried in the order given, and the first whose condition holds is the
word's class' (R74). Total: every word has a class. -/
def decodeHeader (w : Word) : Instr :=
  if fSync w ≠ 0x7FF then .hdrBadsync (fSync w) (fVer w) (fLayer w) (fBri w) (fSri w) (fRest w)
  else
    match layerOf (fLayer w) with
    | none => .hdrBadlayer (versionOf (fVer w)) (fBri w) (fSri w) (fRest w)
    | some layer =>
      if fBri w = 15 then .hdrBadbitrate (versionOf (fVer w)) layer (fSri w) (fRest w)
      else if versionOf (fVer w) = .reserved then .hdrBadsrResver layer (fBri w) (fSri w) (fRest w)
      else if fSri w = 3 then .hdrBadsrIdx3 (versionOf (fVer w)) layer (fBri w) (fRest w)
      else if fBri w = 0 then .hdrFreefmt (versionOf (fVer w)) layer (fSri w) (fRest w)
      else indexedClass (versionOf (fVer w)) layer (fBri w) (fSri w) (fRest w)

/-! ### Cycle selection (40_interface_ops.md R100) -/

/-- `rst = 1` selects RESET whatever `in_valid` is; else `in_valid` selects DECODE or IDLE. -/
def decodeCycle (rst inValid : Bit) (inHdr : Word) : Instr :=
  if rst = 1 then .reset else if inValid = 1 then .decode inHdr else .idle

/-! ### The two formats of the opcode table -/

/-- An encoded operation in one of the table's two formats. -/
inductive Encoded where
  /-- Format `cmd`: the vector {rst, in_valid} with rst in bit 1, and the word on in_hdr. -/
  | cmd (vector : BitVec 2) (inHdr : Word)
  /-- Format `hdr32`: the header word of a DECODE cycle. -/
  | hdr32 (w : Word)
  deriving DecidableEq, Repr

/-- Decoding, total. -/
def decodeEncoded : Encoded → Instr
  | .cmd vector inHdr => decodeCycle (vector.extractLsb' 1 1) (vector.extractLsb' 0 1) inHdr
  | .hdr32 w => decodeHeader w

/-- The encoding of an operation. Ports that a cycle does not sample are driven 0 (RESET and IDLE do not sample in_hdr, and
RESET does not sample in_valid). -/
def encode : Instr → Encoded
  | .reset => .cmd 0b10 0
  | .decode w => .cmd 0b01 w
  | .idle => .cmd 0b00 0
  | .hdrBadsync sync ver layer bri sri m => .hdr32 (hdrWord sync ver layer bri sri m)
  | .hdrBadlayer ver bri sri m => .hdr32 (hdrWord 0x7FF (versionCode ver) 0b00 bri sri m)
  | .hdrBadbitrate ver layer sri m => .hdr32 (hdrWord 0x7FF (versionCode ver) (layerCode layer) 15 sri m)
  | .hdrBadsrResver layer bri sri m => .hdr32 (hdrWord 0x7FF 0b01 (layerCode layer) bri sri m)
  | .hdrBadsrIdx3 ver layer bri m => .hdr32 (hdrWord 0x7FF (versionCode ver) (layerCode layer) bri 3 m)
  | .hdrFreefmt ver layer sri m => .hdr32 (hdrWord 0x7FF (versionCode ver) (layerCode layer) 0 sri m)
  | .hdrM1L1 bri sri m => .hdr32 (hdrWord 0x7FF 0b11 0b11 bri sri m)
  | .hdrM1L2 bri sri m => .hdr32 (hdrWord 0x7FF 0b11 0b10 bri sri m)
  | .hdrM1L3 bri sri m => .hdr32 (hdrWord 0x7FF 0b11 0b01 bri sri m)
  | .hdrM2L1 bri sri m => .hdr32 (hdrWord 0x7FF 0b10 0b11 bri sri m)
  | .hdrM2L2 bri sri m => .hdr32 (hdrWord 0x7FF 0b10 0b10 bri sri m)
  | .hdrM2L3 bri sri m => .hdr32 (hdrWord 0x7FF 0b10 0b01 bri sri m)
  | .hdrM25L1 bri sri m => .hdr32 (hdrWord 0x7FF 0b00 0b11 bri sri m)
  | .hdrM25L2 bri sri m => .hdr32 (hdrWord 0x7FF 0b00 0b10 bri sri m)
  | .hdrM25L3 bri sri m => .hdr32 (hdrWord 0x7FF 0b00 0b01 bri sri m)

/-! ### Bytes (20_memory.md R51, R52) -/

/-- The header word of four stream bytes: big-endian, byte0 in W[31:24] (R12, R52). -/
def packWord (b0 b1 b2 b3 : Byte) : Word := b0 ++ b1 ++ b2 ++ b3

/-- The four stream bytes of a header word, byte0 first. -/
def wordBytes (w : Word) : List Byte :=
  [w.extractLsb' 24 8, w.extractLsb' 16 8, w.extractLsb' 8 8, w.extractLsb' 0 8]

/-- Which of the table's formats a byte string is in. -/
inductive Format where
  | cmd
  | hdr32
  deriving DecidableEq, Repr

/-- Why a byte string is no operation. -/
inductive Rejection where
  /-- Fewer bytes than the format has. -/
  | truncated
  /-- A `cmd` byte with a bit set above the two bits of the vector. -/
  | badCommand
  deriving DecidableEq, Repr

/-- Decoding bytes, total: the operation and the bytes after it, or a rejection by name. A `hdr32` operation is the 4 bytes of
the word. DESIGN CHOICE (log 16): a `cmd` operation is one byte holding the vector in bits 1:0, then the 4 bytes on in_hdr. -/
def decodeBytes : Format → List Byte → Except Rejection (Instr × List Byte)
  | .cmd, c :: b0 :: b1 :: b2 :: b3 :: rest =>
    if c.extractLsb' 2 6 = 0 then
      .ok (decodeEncoded (.cmd (c.extractLsb' 0 2) (packWord b0 b1 b2 b3)), rest)
    else .error .badCommand
  | .hdr32, b0 :: b1 :: b2 :: b3 :: rest => .ok (decodeEncoded (.hdr32 (packWord b0 b1 b2 b3)), rest)
  | _, _ => .error .truncated

/-- The format of an encoded operation. -/
def formatOf : Encoded → Format
  | .cmd _ _ => .cmd
  | .hdr32 _ => .hdr32

/-- The bytes of an encoded operation. -/
def encodedBytes : Encoded → List Byte
  | .cmd vector inHdr => vector.setWidth 8 :: wordBytes inHdr
  | .hdr32 w => wordBytes w

/-- The bytes of an operation. -/
def encodeBytes (i : Instr) : List Byte := encodedBytes (encode i)

/-! ### The opcode table's own numbering of bits -/

/-- The format and bytes of a table row's instruction given as a number: a `cmd` row has 2 bits (one byte), its operand word
in_hdr is then zeros; a `hdr32` row has the 32 bits of W, laid out big-endian (R52). -/
def tableBytes (nbits w : Nat) : Option (Format × List Byte) :=
  if nbits ≤ 8 then some (.cmd, [BitVec.ofNat 8 w, 0, 0, 0, 0])
  else if nbits = 32 then some (.hdr32, wordBytes (BitVec.ofNat 32 w))
  else none

/-- The instruction the decoder reads from an instruction whose bits are `w` as spec/opcode_table.json numbers them. -/
def decodeTableWord (nbits w : Nat) : Option Instr :=
  match tableBytes nbits w with
  | none => none
  | some fb =>
    match decodeBytes fb.1 fb.2 with
    | .ok r => some r.1
    | .error _ => none

end Sys2Proof
end

