-- ==== Sys2Proof/Config.lean ====
section
/-! DEFINITION. What the spec leaves open: the free values. None of them has a body, so a statement about one
holds whatever it is. The MFHD's own parameters are fixed (00_scope.md R10) and stand in the types. -/

namespace Sys2Proof.Config

/-- FREE VALUE (log 8, log 25). What register number `reg` (its place in the table of 10_state.md R28) holds after draw
number `power`, before the first RESET: 'unspecified; a model must treat each as an unconstrained draw'
(70_reset_and_hazards.md R242). The register takes as many low bits as it is wide. -/
opaque powerUpDraw (power reg : Nat) : BitVec 32

/-- FREE VALUE (log 7). What LUT number `table` would give at an index that has no cell to read: entry 0 of a bitrate
table ('never read as a kbps value'), bitrate index 15 ('has no entry') and sampling index 3 (42_lut.md R166, R167).
No decode of a word reads one (42_lut.md R173). -/
opaque noCell (table index : Nat) : Half

/-- FREE VALUE (log 21). Which error kind the host's kind(c) (60_exceptions.md R223) names for a code that no cycle writes,
5 to 7 ('never written', 60_exceptions.md R200), or for 0: a host can read one only before the first RESET. -/
opaque unwrittenKind (code : BitVec 3) : BitVec 2

end Sys2Proof.Config
end

