-- ==== Sys2Proof/Machine/State.lean ====
section
/-! DEFINITION. The state: the output registers (10_state.md R28), the host's state (60_exceptions.md R220-R222), and the model's
own record of what the input ports will carry. Also the reasons a step can stop, and the state after reset. -/

namespace Sys2Proof.Machine

/-- The output registers, 'the MFHD's whole architectural state' (10_state.md R28), in that rule's order and widths. -/
structure Regs where
  /-- 1 after an edge that performed a DECODE, 0 after any other edge (R31). -/
  outValid : Bit
  /-- The word decoded last, also on an error (60_exceptions.md R201). -/
  outHdr : Word
  /-- The error code (60_exceptions.md R200). -/
  outErr : BitVec 3
  outVer : BitVec 2
  outLayer : BitVec 2
  /-- The raw protection bit (R30). -/
  outProt : Bit
  /-- 1 when a CRC word follows the header (R30). -/
  outCrc : Bit
  outBri : BitVec 4
  /-- 1 after a successful decode of a header with bitrate index 0 (R31). -/
  outFree : Bit
  outKbps : Half
  outSri : BitVec 2
  outHz : Half
  outPad : Bit
  outPriv : Bit
  outMode : BitVec 2
  outMext : BitVec 2
  /-- 0 for Bands(n), 1 for Stereo(i, m). -/
  outMxk : Bit
  outBands : BitVec 5
  outIs : Bit
  outMs : Bit
  outCopy : Bit
  outOrig : Bit
  outEmph : BitVec 2
  /-- 1 after a successful decode with an indexed bitrate (R31). -/
  outLvalid : Bit
  /-- The frame length in bytes, header included (43_frame_length.md R185). -/
  outFlen : Half
  /-- The payload length in bytes (43_frame_length.md R187). -/
  outPlen : Half
  deriving DecidableEq, Repr

/-- Every output register 0 (10_state.md R35, 70_reset_and_hazards.md R240). -/
def Regs.zero : Regs :=
  { outValid := 0, outHdr := 0, outErr := 0, outVer := 0, outLayer := 0, outProt := 0, outCrc := 0, outBri := 0,
    outFree := 0, outKbps := 0, outSri := 0, outHz := 0, outPad := 0, outPriv := 0, outMode := 0, outMext := 0,
    outMxk := 0, outBands := 0, outIs := 0, outMs := 0, outCopy := 0, outOrig := 0, outEmph := 0, outLvalid := 0,
    outFlen := 0, outPlen := 0 }

/-- The input ports other than `clk`, as sampled at one rising edge (10_state.md R24). -/
structure Ports where
  /-- Synchronous reset, active high. -/
  rst : Bit
  /-- 1 = the word on `in_hdr` is a header to decode at this edge. -/
  inValid : Bit
  /-- The header word. -/
  inHdr : Word
  deriving DecidableEq, Repr

/-- What the outside world does to the chip next (log 1). -/
inductive Event where
  /-- A rising edge of `clk` that samples these ports, all stable (20_memory.md R55). -/
  | edge (p : Ports)
  /-- A rising edge at which an input violates setup or hold (70_reset_and_hazards.md R248). -/
  | unstable
  /-- Two hosts drive the input port at one edge, not arbitrated outside the chip (20_memory.md R61). -/
  | contended
  /-- `clk` stops for good (60_exceptions.md R212, 93_implementation_defined.md I8). -/
  | clockStopped
  /-- Power is removed and applied again (70_reset_and_hazards.md R242, 93_implementation_defined.md I8). -/
  | powerCycle
  deriving DecidableEq, Repr

/-- The host's two states (60_exceptions.md R220). -/
inductive ScanMode where
  | scanning
  | exhausted
  deriving DecidableEq, Repr

/-- What a byte source does when its bytes have run out (60_exceptions.md R221): it ends, or it fails with an error number. -/
inductive SourceEnd where
  | eos
  | ioErr (e : Nat)
  deriving DecidableEq, Repr

/-- The host's byte source (60_exceptions.md R221, log 13): the bytes still to come and what follows the last one. -/
structure ByteSource where
  bytes : List Byte
  ending : SourceEnd
  deriving DecidableEq, Repr

/-- The host's own state (60_exceptions.md R220-R222). -/
structure Scanner where
  mode : ScanMode
  /-- The number of bytes consumed so far (R222). -/
  pos : Nat
  src : ByteSource
  deriving DecidableEq, Repr

/-- The state. `regs` is the chip's; `host` is the host's; `feed`, `draws` and `resetDone` are the model's own. -/
structure State where
  /-- The output registers (10_state.md R28). -/
  regs : Regs
  /-- What the ports will carry, the next event first (log 1). With nothing listed the host has no word, and drives
  rst = 0 and in_valid = 0 (70_reset_and_hazards.md R244). -/
  feed : List Event
  /-- The host (60_exceptions.md section 6). -/
  host : Scanner
  /-- How many times the registers have taken free values so far (log 8, log 25). -/
  draws : Nat
  /-- Whether a RESET edge has come since power was applied: before it 'the value of every output register is unspecified'
  (70_reset_and_hazards.md R242). No port shows it; it is the model's record of what has happened (log 25). -/
  resetDone : Bool
  deriving DecidableEq, Repr

/-- Why a step stops the machine. No instruction faults: the MFHD has no trap (60_exceptions.md R207) and no input word
can make it hang (R205). -/
inductive Fault where
  /-- Raised by `step` alone, at `Event.clockStopped`: 'with clk stopped the MFHD takes no step and its registers hold
  (stuck, with no time in the model)' (93_implementation_defined.md I8). Safe: the model says nothing of a time after it. -/
  | clockStopped
  deriving DecidableEq, Repr

/-- Why a step has no meaning in the model. No instruction is refused. -/
inductive Refusal where
  /-- Raised by an arm of `exec` whose instruction has no meaning yet; no arm does. Safe. -/
  | notModelled (mnemonic : String)
  /-- Raised by `step` alone, at `Event.unstable`: what the MFHD does 'is not specified, and the model treats such a cycle as
  outside its scope' (70_reset_and_hazards.md R248; 93_implementation_defined.md I7, treatment `refuse`). Safe. -/
  | unstableInputs
  /-- Raised by `step` alone, at `Event.contended`: 'undefined and must be prevented by the caller' (20_memory.md R61;
  93_implementation_defined.md I9, treatment `refuse`). Safe. -/
  | twoHosts
  deriving DecidableEq, Repr

/-- The machine right after reset: every output register 0 (70_reset_and_hazards.md R240), the host in its initial state Scanning
with no byte consumed (60_exceptions.md R220, R222); a RESET has been done (70_reset_and_hazards.md R242). DESIGN CHOICE: nothing is listed on the ports (log 1), the byte source is
empty and ends cleanly (log 12), and no free value has been taken (log 8). -/
def State.reset : State :=
  { regs := Regs.zero, feed := [], host := { mode := .scanning, pos := 0, src := { bytes := [], ending := .eos } }, draws := 0,
    resetDone := true }

end Sys2Proof.Machine
end

