-- ==== Sys2Proof/Machine/Operands.lean ====
section
/-! DEFINITION. The decoded header record H (10_state.md R25) and the meaning of each field code (30_encoding.md R73). -/

namespace Sys2Proof.Machine

/-- The channel mode (R25, R133). -/
inductive ChannelMode where
  | stereo
  | jointStereo
  | dualChannel
  | mono
  deriving DecidableEq, Repr

/-- The emphasis (R25, R137); `reserved` is a value, not an error (30_encoding.md R77). -/
inductive Emphasis where
  | none
  | ms50_15
  | reserved
  | ccittJ17
  deriving DecidableEq, Repr

/-- The bitrate: Indexed(kbps) or FreeFormat (R25). -/
inductive Bitrate where
  | indexed (kbps : Half)
  | freeFormat
  deriving DecidableEq, Repr

/-- The mode extension: Bands(n: 8-bit unsigned) or Stereo(intensity, ms) (R25). -/
inductive ModeExtension where
  | bands (n : BitVec 8)
  | stereo (intensity ms : Bit)
  deriving DecidableEq, Repr

/-- The layer together with its mode extension, so that 'an H with the wrong variant' cannot be written (R26): a III header
never carries Bands, and a I or II header never carries Stereo. -/
inductive LayerExt where
  | layerI (n : BitVec 8)
  | layerII (n : BitVec 8)
  | layerIII (intensity ms : Bit)
  deriving DecidableEq, Repr

/-- The `layer` field of H. -/
def LayerExt.layer : LayerExt → Layer
  | .layerI _ => .layerI
  | .layerII _ => .layerII
  | .layerIII _ _ => .layerIII

/-- The `mode_extension` field of H. -/
def LayerExt.modeExtension : LayerExt → ModeExtension
  | .layerI n => .bands n
  | .layerII n => .bands n
  | .layerIII i m => .stereo i m

/-- The decoded header record H (R25). `ext` holds both `layer` and `mode_extension` (R26); `priv` is the field `private`. -/
structure Header where
  version : Version
  ext : LayerExt
  /-- The raw protection bit, W[16] (R30). -/
  protection : Bit
  bitrate : Bitrate
  /-- Hz. -/
  samplingRate : Half
  padding : Bit
  priv : Bit
  mode : ChannelMode
  copyright : Bit
  original : Bit
  emphasis : Emphasis
  deriving DecidableEq, Repr

/-- The `layer` of H. -/
def Header.layer (h : Header) : Layer := h.ext.layer

/-- The `mode_extension` of H. -/
def Header.modeExtension (h : Header) : ModeExtension := h.ext.modeExtension

/-- The error kinds of a decode (60_exceptions.md R200). -/
inductive HeaderError where
  | badSync
  | badLayer
  | badBitrate
  | badSamplingRate
  deriving DecidableEq, Repr

/-- The result of decode(W): ok(H) or fail E (00_scope.md R14). -/
inductive DecodeResult where
  | ok (h : Header)
  | fail (e : HeaderError)
  deriving DecidableEq, Repr

/-- Step 8, channel mode (41_header_decode.md R133). -/
def channelModeOf (c : BitVec 2) : ChannelMode :=
  if c = 0b00 then .stereo else if c = 0b01 then .jointStereo else if c = 0b10 then .dualChannel else .mono

/-- Step 11, emphasis (41_header_decode.md R137). -/
def emphasisOf (c : BitVec 2) : Emphasis :=
  if c = 0b00 then .none else if c = 0b01 then .ms50_15 else if c = 0b10 then .reserved else .ccittJ17

/-- Step 9a, Bands(4 * (MEXT + 1)) (41_header_decode.md R134). UNVERIFIED, unsafe (log 3): the map is the spec's decision D11,
not its source's. -/
def bandsOf (mext : BitVec 2) : BitVec 8 := 4 * (mext.setWidth 8 + 1)

/-- Step 9b, intensity = W[4], MEXT bit 0 (41_header_decode.md R135). UNVERIFIED, unsafe (log 3): decision D12. -/
def intensityOf (mext : BitVec 2) : Bit := mext.extractLsb' 0 1

/-- Step 9b, ms = W[5], MEXT bit 1 (41_header_decode.md R135). UNVERIFIED, unsafe (log 3): decision D12. -/
def msOf (mext : BitVec 2) : Bit := mext.extractLsb' 1 1

/-- Step 9: the mode extension is decoded from the layer alone, for every channel mode (41_header_decode.md R134, R135, R138). -/
def layerExtOf (layer : Layer) (mext : BitVec 2) : LayerExt :=
  match layer with
  | .layerI => .layerI (bandsOf mext)
  | .layerII => .layerII (bandsOf mext)
  | .layerIII => .layerIII (intensityOf mext) (msOf mext)

/-- H from a version, a layer, a bitrate, a sampling rate, and the fields no class condition reads (steps 4 and 7 to 11,
41_header_decode.md R125, R132-R137). -/
def headerOf (version : Version) (layer : Layer) (bitrate : Bitrate) (hz : Half) (m : HdrRest) : Header :=
  { version := version, ext := layerExtOf layer m.mext, protection := m.prot, bitrate := bitrate, samplingRate := hz,
    padding := m.pad, priv := m.priv, mode := channelModeOf m.mode, copyright := m.copy, original := m.orig,
    emphasis := emphasisOf m.emph }

end Sys2Proof.Machine
end

