-- ==== Sys2Proof/Machine/Flags.lean ====
section
/-! DEFINITION. The status flags (10_state.md R31) and the error codes (60_exceptions.md R200). -/

namespace Sys2Proof.Machine

/-- The code of an error kind in `out_err` (R200). -/
def errCode : HeaderError → BitVec 3
  | .badSync => 1
  | .badLayer => 2
  | .badBitrate => 3
  | .badSamplingRate => 4

/-- The kind a code stands for. 0 is no error; 5, 6 and 7 are never written (R200). -/
def errKind (c : BitVec 3) : Option HeaderError :=
  if c = 1 then some .badSync else if c = 2 then some .badLayer else if c = 3 then some .badBitrate
  else if c = 4 then some .badSamplingRate else none

/-- A free error kind, for a code that stands for none (log 21). -/
def freeKind (c : BitVec 3) : HeaderError :=
  if Config.unwrittenKind c = 0 then .badSync else if Config.unwrittenKind c = 1 then .badLayer
  else if Config.unwrittenKind c = 2 then .badBitrate else .badSamplingRate

/-- kind(c) of 60_exceptions.md R223, total. -/
def kindOf (c : BitVec 3) : HeaderError := (errKind c).getD (freeKind c)

/-- `out_free`: 1 if bitrate = FreeFormat else 0 (10_state.md R28). -/
def freeFlag : Bitrate → Bit
  | .freeFormat => 1
  | .indexed _ => 0

/-- `out_lvalid`: 1 if bitrate = Indexed(_), 0 if FreeFormat (10_state.md R28). -/
def lvalidFlag : Bitrate → Bit
  | .freeFormat => 0
  | .indexed _ => 1

/-- `out_crc` = NOT W[16] (10_state.md R30). UNVERIFIED, unsafe (log 4): the polarity is the spec's decision D10. -/
def crcFlag (prot : Bit) : Bit := ~~~prot

/-- `out_mxk`: 0 for Bands(n), 1 for Stereo(i, m) (10_state.md R28). -/
def mxkFlag : ModeExtension → Bit
  | .bands _ => 0
  | .stereo _ _ => 1

end Sys2Proof.Machine
end

