-- ==== Sys2Proof/Machine/FrameLength.lean ====
section
/-! DEFINITION. The frame-length computer with padding compensation (43_frame_length.md): exact products of natural numbers,
divisions truncated toward zero (00_scope.md R13). -/

namespace Sys2Proof.Machine

/-- Samples per frame (R181): 384 for LayerI, 1152 otherwise, for every version (90_conflicts.md C3). -/
def samplesPerFrame : Layer → Nat
  | .layerI => 384
  | .layerII => 1152
  | .layerIII => 1152

/-- Byte rate, bytes per second (R182). -/
def byteRate (kbps : Half) : Nat := kbps.toNat * 1000 / 8

/-- Base size (R183). -/
def baseSize (layer : Layer) (kbps hz : Half) : Nat := samplesPerFrame layer * byteRate kbps / hz.toNat

/-- One slot (00_scope.md R16): 4 bytes for LayerI, 1 byte otherwise. -/
def slotBytes : Layer → Nat
  | .layerI => 4
  | .layerII => 1
  | .layerIII => 1

/-- Padding compensation (R184). -/
def paddingBytes (layer : Layer) (pad : Bit) : Nat := if pad = 1 then slotBytes layer else 0

/-- The length of a frame with an indexed bitrate (R185). -/
def frameLength (layer : Layer) (kbps hz : Half) (pad : Bit) : Nat := baseSize layer kbps hz + paddingBytes layer pad

/-- frame_size(H) (R180, R185): undefined, the source's None, for FreeFormat. -/
def frameSize (h : Header) : Option Nat :=
  match h.bitrate with
  | .freeFormat => none
  | .indexed kbps => some (frameLength h.layer kbps h.samplingRate h.padding)

end Sys2Proof.Machine
end

