-- ==== Sys2Proof/Machine/Lut.lean ====
section
/-! DEFINITION. The bitrate and sample-rate LUT multiplexer (42_lut.md). UNVERIFIED, unsafe (log 2): of the 79 cells the
spec's source confirms four (R171); the others are the ISO values the spec's hardware holds (decision D14). -/

namespace Sys2Proof.Machine

/-- The five bitrate tables (R160). -/
inductive BrTable where
  | m1l1
  | m1l2
  | m1l3
  | lsfL1
  | lsfL23
  deriving DecidableEq, Repr

/-- The three sample-rate tables (R167). -/
inductive SrTable where
  | m1
  | m2
  | m25
  deriving DecidableEq, Repr

/-- br_sel(version, layer) (R160): Reserved counts as non-Mpeg1. -/
def brSel (version : Version) (layer : Layer) : BrTable :=
  match version, layer with
  | .mpeg1, .layerI => .m1l1
  | .mpeg1, .layerII => .m1l2
  | .mpeg1, .layerIII => .m1l3
  | _, .layerI => .lsfL1
  | _, .layerII => .lsfL23
  | _, .layerIII => .lsfL23

/-- The kbps entries for index 1 to 14 (R161 to R165). -/
def brCells : BrTable → List Half
  | .m1l1 => [32, 64, 96, 128, 160, 192, 224, 256, 288, 320, 352, 384, 416, 448]
  | .m1l2 => [32, 48, 56, 64, 80, 96, 112, 128, 160, 192, 224, 256, 320, 384]
  | .m1l3 => [32, 40, 48, 56, 64, 80, 96, 112, 128, 160, 192, 224, 256, 320]
  | .lsfL1 => [32, 48, 56, 64, 80, 96, 112, 128, 144, 160, 176, 192, 224, 256]
  | .lsfL23 => [8, 16, 24, 32, 40, 48, 56, 64, 80, 96, 112, 128, 144, 160]

/-- A number for each bitrate table, to name the free value of a cell it does not have. -/
def brNumber : BrTable → Nat
  | .m1l1 => 0
  | .m1l2 => 1
  | .m1l3 => 2
  | .lsfL1 => 3
  | .lsfL23 => 4

/-- The 15 entries of a bitrate table, index 0 to 14 (R33, R166). 'Entry 0 is never read as a kbps value': a free value (log 7). -/
def brEntries (t : BrTable) : List Half := Config.noCell (brNumber t) 0 :: brCells t

/-- BR_LUT(t, i) (00_scope.md R14). 'Index 15 has no entry' (R166): a free value, never read by a decode (R173). -/
def brLut (t : BrTable) (i : BitVec 4) : Half :=
  (brEntries t).getD i.toNat (Config.noCell (brNumber t) i.toNat)

/-- sr_sel(version) (R167): 'Reserved selects no table'. -/
def srSel : Version → Option SrTable
  | .mpeg1 => some .m1
  | .mpeg2 => some .m2
  | .mpeg25 => some .m25
  | .reserved => none

/-- The Hz entries for index 0 to 2 (R168 to R170). -/
def srCells : SrTable → List Half
  | .m1 => [44100, 48000, 32000]
  | .m2 => [22050, 24000, 16000]
  | .m25 => [11025, 12000, 8000]

/-- A number for each sample-rate table, after those of the bitrate tables. -/
def srNumber : SrTable → Nat
  | .m1 => 5
  | .m2 => 6
  | .m25 => 7

/-- SR_LUT(t, i) (00_scope.md R14). Index 3 is invalid: a free value, never read by a decode (R173). -/
def srLut (t : SrTable) (i : BitVec 2) : Half :=
  (srCells t).getD i.toNat (Config.noCell (srNumber t) i.toNat)

end Sys2Proof.Machine
end

