-- ==== Sys2Proof/Machine/HeaderDecode.lean ====
section
/-! DEFINITION. The pure function decode(W) (41_header_decode.md R120, R121). -/

namespace Sys2Proof.Machine

/-- Step 1, the sync check as the rule writes it: byte0 and the top 3 bits of byte1 (R122). -/
def syncBad (w : Word) : Bool := w.extractLsb' 24 8 != 0xFF || w.extractLsb' 21 3 != 0b111

/-- Step 5 after its check: FreeFormat for index 0, else the LUT's kbps (R127, R128). -/
def bitrateOf (version : Version) (layer : Layer) (bri : BitVec 4) : Bitrate :=
  if bri = 0 then .freeFormat else .indexed (brLut (brSel version layer) bri)

/-- decode(W): the steps in order, the first that fails ends it (R120, R121). Step 6 fails for a Reserved version, which selects
no sample-rate table, and for index 3 (R129 to R131). -/
def decodeWord (w : Word) : DecodeResult :=
  if syncBad w then .fail .badSync
  else
    match layerOf (fLayer w) with
    | none => .fail .badLayer
    | some layer =>
      if fBri w = 15 then .fail .badBitrate
      else
        match srSel (versionOf (fVer w)) with
        | none => .fail .badSamplingRate
        | some table =>
          if fSri w = 3 then .fail .badSamplingRate
          else
            .ok (headerOf (versionOf (fVer w)) layer (bitrateOf (versionOf (fVer w)) layer (fBri w))
              (srLut table (fSri w)) (fRest w))

end Sys2Proof.Machine
end

