-- ==== Sys2Proof/Machine/Ops.lean ====
section
/-! DEFINITION. The shared operations: what the ports carry next, one clock edge, the register values of a successful and of a
failed decode (40_interface_ops.md R101, 10_state.md R28), the error report (the MFHD's counterpart of taking an exception,
60_exceptions.md R201, R207), and power-up. -/

namespace Sys2Proof.Machine

/-! ### Input -/

/-- The ports of a cycle with no word: rst = 0, in_valid = 0 (70_reset_and_hazards.md R244). in_hdr is not sampled. -/
def idlePorts : Ports := { rst := 0, inValid := 0, inHdr := 0 }

/-- The ports of a cycle that presents a word (30_encoding.md R81). -/
def wordPorts (w : Word) : Ports := { rst := 0, inValid := 1, inHdr := w }

/-- What happens next: the first event listed; with none listed, an edge with no word (log 1). -/
def nextEvent (s : State) : Event := s.feed.headD (.edge idlePorts)

/-- The operation the sampled ports select (40_interface_ops.md R100). -/
def sampled (p : Ports) : Instr := decodeCycle p.rst p.inValid p.inHdr

/-- The ports that carry an operation given as the opcode table numbers its bits (`tableBytes`). -/
def tablePorts (nbits w : Nat) : Option Ports :=
  if nbits ≤ 8 then
    some { rst := (BitVec.ofNat 8 w).extractLsb' 1 1, inValid := (BitVec.ofNat 8 w).extractLsb' 0 1, inHdr := 0 }
  else if nbits = 32 then some (wordPorts (BitVec.ofNat 32 w))
  else none

/-- The state with these ports sampled next, in place of the event listed first. -/
def withPorts (s : State) (p : Ports) : State := { s with feed := .edge p :: s.feed.tail }

/-! ### Register values after a DECODE -/

/-- The error report: the code in `out_err`, the whole offending word in `out_hdr`, every decoded field and length register 0
(60_exceptions.md R201; 10_state.md R28, column 'on fail'). -/
def failRegs (w : Word) (e : HeaderError) : Regs :=
  { Regs.zero with outValid := 1, outHdr := w, outErr := errCode e }

/-- `out_kbps`: kbps if Indexed(kbps), 0 if FreeFormat. -/
def kbpsOut : Bitrate → Half
  | .freeFormat => 0
  | .indexed k => k

/-- `out_bands`: n if Bands(n), else 0. -/
def bandsOut : ModeExtension → BitVec 5
  | .bands n => n.setWidth 5
  | .stereo _ _ => 0

/-- `out_is`: intensity if Stereo(intensity, ms), else 0. -/
def isOut : ModeExtension → Bit
  | .bands _ => 0
  | .stereo i _ => i

/-- `out_ms`: ms if Stereo(intensity, ms), else 0. -/
def msOut : ModeExtension → Bit
  | .bands _ => 0
  | .stereo _ m => m

/-- `out_flen`: zext_16(frame_size(H)) if Indexed, 0 if FreeFormat. -/
def flenOut (h : Header) : Half :=
  match frameSize h with
  | none => 0
  | some n => BitVec.ofNat 16 n

/-- `out_plen`: zext_16(frame_size(H) - 4) if Indexed, 0 if FreeFormat. -/
def plenOut (h : Header) : Half :=
  match frameSize h with
  | none => 0
  | some n => BitVec.ofNat 16 (n - 4)

/-- The registers a DECODE writes on ok(H) (40_interface_ops.md R101; 10_state.md R28, column 'on ok'). -/
def okRegs (w : Word) (h : Header) : Regs :=
  { outValid := 1
    outHdr := w
    outErr := 0
    outVer := fVer w
    outLayer := fLayer w
    outProt := fProt w
    outCrc := crcFlag (fProt w)
    outBri := fBri w
    outFree := freeFlag h.bitrate
    outKbps := kbpsOut h.bitrate
    outSri := fSri w
    outHz := h.samplingRate
    outPad := fPad w
    outPriv := fPriv w
    outMode := fMode w
    outMext := fMext w
    outMxk := mxkFlag h.modeExtension
    outBands := bandsOut h.modeExtension
    outIs := isOut h.modeExtension
    outMs := msOut h.modeExtension
    outCopy := fCopy w
    outOrig := fOrig w
    outEmph := fEmph w
    outLvalid := lvalidFlag h.bitrate
    outFlen := flenOut h
    outPlen := plenOut h }

/-- The registers a DECODE of `w` writes (40_interface_ops.md R101). -/
def resultRegs (w : Word) : DecodeResult → Regs
  | .fail e => failRegs w e
  | .ok h => okRegs w h

/-- The registers after an IDLE: `out_valid` 0, every other register as it was (40_interface_ops.md R102). -/
def idleRegs (r : Regs) : Regs := { r with outValid := 0 }

/-! ### Free values, from power-up to the first RESET -/

/-- A free value for register number `reg` (log 8). -/
def drawn (power reg : Nat) (width : Nat) : BitVec width := (Config.powerUpDraw power reg).setWidth width

/-- The registers of draw number `power`, each an unconstrained draw (70_reset_and_hazards.md R242). -/
def powerUpRegs (power : Nat) : Regs :=
  { outValid := drawn power 0 1
    outHdr := drawn power 1 32
    outErr := drawn power 2 3
    outVer := drawn power 3 2
    outLayer := drawn power 4 2
    outProt := drawn power 5 1
    outCrc := drawn power 6 1
    outBri := drawn power 7 4
    outFree := drawn power 8 1
    outKbps := drawn power 9 16
    outSri := drawn power 10 2
    outHz := drawn power 11 16
    outPad := drawn power 12 1
    outPriv := drawn power 13 1
    outMode := drawn power 14 2
    outMext := drawn power 15 2
    outMxk := drawn power 16 1
    outBands := drawn power 17 5
    outIs := drawn power 18 1
    outMs := drawn power 19 1
    outCopy := drawn power 20 1
    outOrig := drawn power 21 1
    outEmph := drawn power 22 2
    outLvalid := drawn power 23 1
    outFlen := drawn power 24 16
    outPlen := drawn power 25 16 }

/-- Every register takes a fresh draw, and the event is consumed. -/
def drawAll (s : State) : State :=
  { s with regs := powerUpRegs s.draws, feed := s.feed.tail, draws := s.draws + 1 }

/-- Power removed and applied again: fresh draws, and no RESET since (log 8). The host is another agent and keeps its state. -/
def powerUp (s : State) : State := { drawAll s with resetDone := false }

/-! ### One edge -/

/-- One rising edge of a DECODE or an IDLE that writes these registers: 'every write in one cycle takes effect at the same edge'
(00_scope.md R14), and the sample is consumed. DESIGN CHOICE, safe (log 25): before the first RESET after power-up the registers
take fresh draws instead, since until then every register is 'an unconstrained draw' (70_reset_and_hazards.md R242,
93_implementation_defined.md I6). -/
def clock (r : Regs) (s : State) : State :=
  if s.resetDone then { s with regs := r, feed := s.feed.tail } else drawAll s

/-- The rising edge of a RESET: every register 0 (40_interface_ops.md R103, 70_reset_and_hazards.md R240). From here on the registers
hold what the cycles write (R242). -/
def resetEdge (s : State) : State := { s with regs := Regs.zero, feed := s.feed.tail, resetDone := true }

/-- A DECODE that ends with `fail E`. -/
def reportError (w : Word) (e : HeaderError) (s : State) : State := clock (failRegs w e) s

/-- A DECODE that ends with `ok(H)`. -/
def reportOk (w : Word) (h : Header) (s : State) : State := clock (okRegs w h) s

end Sys2Proof.Machine
end

