-- ==== Sys2Proof/Machine/BadHeader.lean ====
section
/-! DEFINITION. The header classes that fail, and the free-format class: rows HDR_BADSYNC to HDR_FREEFMT of
spec/opcode_table.json (30_encoding.md R74). Each is a DECODE cycle with a word of its class. -/

namespace Sys2Proof.Machine

/-- HDR_BADSYNC: fail BadSync, out_err = 1 (41_header_decode.md R122). -/
def execHdrBadsync (sync : BitVec 11) (ver layer : BitVec 2) (bri : BitVec 4) (sri : BitVec 2) (m : HdrRest) (s : State) :
    Host.Outcome State Fault Refusal :=
  .next (reportError (hdrWord sync ver layer bri sri m) .badSync s)

/-- HDR_BADLAYER: fail BadLayer, out_err = 2 (41_header_decode.md R124). -/
def execHdrBadlayer (ver : Version) (bri : BitVec 4) (sri : BitVec 2) (m : HdrRest) (s : State) :
    Host.Outcome State Fault Refusal :=
  .next (reportError (hdrWord 0x7FF (versionCode ver) 0b00 bri sri m) .badLayer s)

/-- HDR_BADBITRATE: fail BadBitrate, out_err = 3 (41_header_decode.md R126). -/
def execHdrBadbitrate (ver : Version) (layer : Layer) (sri : BitVec 2) (m : HdrRest) (s : State) :
    Host.Outcome State Fault Refusal :=
  .next (reportError (hdrWord 0x7FF (versionCode ver) (layerCode layer) 15 sri m) .badBitrate s)

/-- HDR_BADSR_RESVER: fail BadSamplingRate, out_err = 4 (41_header_decode.md R131). -/
def execHdrBadsrResver (layer : Layer) (bri : BitVec 4) (sri : BitVec 2) (m : HdrRest) (s : State) :
    Host.Outcome State Fault Refusal :=
  .next (reportError (hdrWord 0x7FF 0b01 (layerCode layer) bri sri m) .badSamplingRate s)

/-- HDR_BADSR_IDX3: fail BadSamplingRate, out_err = 4 (41_header_decode.md R129). -/
def execHdrBadsrIdx3 (ver : Version) (layer : Layer) (bri : BitVec 4) (m : HdrRest) (s : State) :
    Host.Outcome State Fault Refusal :=
  .next (reportError (hdrWord 0x7FF (versionCode ver) (layerCode layer) bri 3 m) .badSamplingRate s)

/-- HDR_FREEFMT: ok, out_free = 1, out_lvalid = 0 (41_header_decode.md R127, 43_frame_length.md R180). A Reserved version, which
no member of the class has, selects no sample-rate table and fails (41_header_decode.md R131). -/
def execHdrFreefmt (ver : Version) (layer : Layer) (sri : BitVec 2) (m : HdrRest) (s : State) :
    Host.Outcome State Fault Refusal :=
  match srSel ver with
  | none => .next (reportError (hdrWord 0x7FF (versionCode ver) (layerCode layer) 0 sri m) .badSamplingRate s)
  | some table =>
    .next (reportOk (hdrWord 0x7FF (versionCode ver) (layerCode layer) 0 sri m)
      (headerOf ver layer .freeFormat (srLut table sri) m) s)

end Sys2Proof.Machine
end

