-- ==== Sys2Proof/Machine/Cycles.lean ====
section
/-! DEFINITION. The three interface cycles (40_interface_ops.md R101 to R103). -/

namespace Sys2Proof.Machine

/-- RESET: every register 0, before and after the first RESET alike (R103). -/
def execReset (s : State) : Host.Outcome State Fault Refusal := .next (resetEdge s)

/-- DECODE: the registers of decode(W) (R101). Before the first RESET after power-up they are fresh draws (`clock`, log 25). -/
def execDecode (w : Word) (s : State) : Host.Outcome State Fault Refusal :=
  .next (clock (resultRegs w (decodeWord w)) s)

/-- IDLE: `out_valid` falls, every other register keeps its value (R102). Before the first RESET after power-up every
register is a fresh draw (`clock`, log 25). -/
def execIdle (s : State) : Host.Outcome State Fault Refusal := .next (clock (idleRegs s.regs) s)

end Sys2Proof.Machine
end

