-- ==== Sys2Proof/Machine/Indexed.lean ====
section
/-! DEFINITION. The nine header classes with an indexed bitrate: rows HDR_M1_L1 to HDR_M25_L3 of spec/opcode_table.json
(30_encoding.md R74, 41_header_decode.md R121). Each row names its version and layer codes, its bitrate and sample-rate tables
(42_lut.md R160, R167); the layer selects samples per frame and slot (43_frame_length.md R181, R184). -/

namespace Sys2Proof.Machine

/-- An indexed header of version `ver` and layer `layer`, with the kbps and Hz of its tables. -/
def indexedHeader (ver : Version) (layer : Layer) (br : BrTable) (sr : SrTable) (bri : BitVec 4) (sri : BitVec 2)
    (m : HdrRest) : Header :=
  headerOf ver layer (.indexed (brLut br bri)) (srLut sr sri) m

/-- HDR_M1_L1: Mpeg1, LayerI; kbps = BR_M1_L1[bri], hz = SR_M1[sri]. -/
def execHdrM1L1 (bri : BitVec 4) (sri : BitVec 2) (m : HdrRest) (s : State) : Host.Outcome State Fault Refusal :=
  .next (reportOk (hdrWord 0x7FF 0b11 0b11 bri sri m) (indexedHeader .mpeg1 .layerI .m1l1 .m1 bri sri m) s)

/-- HDR_M1_L2: Mpeg1, LayerII; kbps = BR_M1_L2[bri], hz = SR_M1[sri]. -/
def execHdrM1L2 (bri : BitVec 4) (sri : BitVec 2) (m : HdrRest) (s : State) : Host.Outcome State Fault Refusal :=
  .next (reportOk (hdrWord 0x7FF 0b11 0b10 bri sri m) (indexedHeader .mpeg1 .layerII .m1l2 .m1 bri sri m) s)

/-- HDR_M1_L3: Mpeg1, LayerIII; kbps = BR_M1_L3[bri], hz = SR_M1[sri]. -/
def execHdrM1L3 (bri : BitVec 4) (sri : BitVec 2) (m : HdrRest) (s : State) : Host.Outcome State Fault Refusal :=
  .next (reportOk (hdrWord 0x7FF 0b11 0b01 bri sri m) (indexedHeader .mpeg1 .layerIII .m1l3 .m1 bri sri m) s)

/-- HDR_M2_L1: Mpeg2, LayerI; kbps = BR_LSF_L1[bri], hz = SR_M2[sri]. -/
def execHdrM2L1 (bri : BitVec 4) (sri : BitVec 2) (m : HdrRest) (s : State) : Host.Outcome State Fault Refusal :=
  .next (reportOk (hdrWord 0x7FF 0b10 0b11 bri sri m) (indexedHeader .mpeg2 .layerI .lsfL1 .m2 bri sri m) s)

/-- HDR_M2_L2: Mpeg2, LayerII; kbps = BR_LSF_L23[bri], hz = SR_M2[sri]. -/
def execHdrM2L2 (bri : BitVec 4) (sri : BitVec 2) (m : HdrRest) (s : State) : Host.Outcome State Fault Refusal :=
  .next (reportOk (hdrWord 0x7FF 0b10 0b10 bri sri m) (indexedHeader .mpeg2 .layerII .lsfL23 .m2 bri sri m) s)

/-- HDR_M2_L3: Mpeg2, LayerIII; kbps = BR_LSF_L23[bri], hz = SR_M2[sri]. -/
def execHdrM2L3 (bri : BitVec 4) (sri : BitVec 2) (m : HdrRest) (s : State) : Host.Outcome State Fault Refusal :=
  .next (reportOk (hdrWord 0x7FF 0b10 0b01 bri sri m) (indexedHeader .mpeg2 .layerIII .lsfL23 .m2 bri sri m) s)

/-- HDR_M25_L1: Mpeg2_5, LayerI; kbps = BR_LSF_L1[bri], hz = SR_M25[sri]. -/
def execHdrM25L1 (bri : BitVec 4) (sri : BitVec 2) (m : HdrRest) (s : State) : Host.Outcome State Fault Refusal :=
  .next (reportOk (hdrWord 0x7FF 0b00 0b11 bri sri m) (indexedHeader .mpeg25 .layerI .lsfL1 .m25 bri sri m) s)

/-- HDR_M25_L2: Mpeg2_5, LayerII; kbps = BR_LSF_L23[bri], hz = SR_M25[sri]. -/
def execHdrM25L2 (bri : BitVec 4) (sri : BitVec 2) (m : HdrRest) (s : State) : Host.Outcome State Fault Refusal :=
  .next (reportOk (hdrWord 0x7FF 0b00 0b10 bri sri m) (indexedHeader .mpeg25 .layerII .lsfL23 .m25 bri sri m) s)

/-- HDR_M25_L3: Mpeg2_5, LayerIII; kbps = BR_LSF_L23[bri], hz = SR_M25[sri]. -/
def execHdrM25L3 (bri : BitVec 4) (sri : BitVec 2) (m : HdrRest) (s : State) : Host.Outcome State Fault Refusal :=
  .next (reportOk (hdrWord 0x7FF 0b00 0b01 bri sri m) (indexedHeader .mpeg25 .layerIII .lsfL23 .m25 bri sri m) s)

end Sys2Proof.Machine
end

