-- ==== Sys2Proof/Machine/Dispatch.lean ====
section
/-! DEFINITION. One arm per constructor of `Instr`: its meaning. -/

namespace Sys2Proof.Machine

def exec (i : Instr) (s : State) : Host.Outcome State Fault Refusal :=
  match i with
  -- the cycles (40_interface_ops.md)
  | .reset => Sys2Proof.Machine.execReset s
  | .decode w => Sys2Proof.Machine.execDecode w s
  | .idle => Sys2Proof.Machine.execIdle s
  -- the failing classes and free format (30_encoding.md R74, classes 1 to 6)
  | .hdrBadsync sync ver layer bri sri m => Sys2Proof.Machine.execHdrBadsync sync ver layer bri sri m s
  | .hdrBadlayer ver bri sri m => Sys2Proof.Machine.execHdrBadlayer ver bri sri m s
  | .hdrBadbitrate ver layer sri m => Sys2Proof.Machine.execHdrBadbitrate ver layer sri m s
  | .hdrBadsrResver layer bri sri m => Sys2Proof.Machine.execHdrBadsrResver layer bri sri m s
  | .hdrBadsrIdx3 ver layer bri m => Sys2Proof.Machine.execHdrBadsrIdx3 ver layer bri m s
  | .hdrFreefmt ver layer sri m => Sys2Proof.Machine.execHdrFreefmt ver layer sri m s
  -- the indexed classes (30_encoding.md R74, classes 7 to 15)
  | .hdrM1L1 bri sri m => Sys2Proof.Machine.execHdrM1L1 bri sri m s
  | .hdrM1L2 bri sri m => Sys2Proof.Machine.execHdrM1L2 bri sri m s
  | .hdrM1L3 bri sri m => Sys2Proof.Machine.execHdrM1L3 bri sri m s
  | .hdrM2L1 bri sri m => Sys2Proof.Machine.execHdrM2L1 bri sri m s
  | .hdrM2L2 bri sri m => Sys2Proof.Machine.execHdrM2L2 bri sri m s
  | .hdrM2L3 bri sri m => Sys2Proof.Machine.execHdrM2L3 bri sri m s
  | .hdrM25L1 bri sri m => Sys2Proof.Machine.execHdrM25L1 bri sri m s
  | .hdrM25L2 bri sri m => Sys2Proof.Machine.execHdrM25L2 bri sri m s
  | .hdrM25L3 bri sri m => Sys2Proof.Machine.execHdrM25L3 bri sri m s

end Sys2Proof.Machine
end

