-- ==== Sys2Proof/Machine/Step.lean ====
section
/-! DEFINITION. One step: one rising edge of `clk` (10_state.md R20, 40_interface_ops.md R100). -/

namespace Sys2Proof.Machine

/-- One step. At a clean edge the MFHD performs the one operation the sampled ports select (R100); the other events are what the
spec says of power (R242) and of what lies outside the model (R248, R61, 93_implementation_defined.md I7 to I9). -/
def step (s : State) : Host.Outcome State Fault Refusal :=
  match nextEvent s with
  | .edge p => exec (sampled p) s
  | .powerCycle => .next (powerUp s)
  | .unstable => .refused .unstableInputs
  | .contended => .refused .twoHosts
  | .clockStopped => .fault .clockStopped

/-- `s` with an instruction, given as spec/opcode_table.json numbers its bits, on the ports at the next edge. A number of bits that
no row has changes nothing (log 15). -/
def State.withFetchWord (s : State) (nbits w : Nat) : State :=
  match tablePorts nbits w with
  | none => s
  | some p => withPorts s p

end Sys2Proof.Machine
end

