-- ==== Sys2Proof/Machine/Scanner.lean ====
section
/-! DEFINITION. The host: the frame scanner that runs the MFHD (60_exceptions.md section 6, R220 to R231). It is software around
the chip (00_scope.md R6); the spec gives it in full, so the model has it in full. -/

namespace Sys2Proof.Machine

/-! ### The byte source (R221) -/

/-- The outcomes of SrcRead(n). -/
inductive ReadResult where
  | full (bytes : List Byte)
  | eos
  | short (k : Nat)
  | ioErr (e : Nat)
  deriving DecidableEq, Repr

/-- SrcRead(n): the outcome and the host after it. A call consumes the bytes it delivers, and the position counts them (R222);
DEDUCED (log 13): a read that fails delivers and consumes nothing.
DESIGN CHOICE, unsafe (log 26): SrcRead(0) is Full with no bytes, whatever the source holds and however it ends. -/
def srcRead (n : Nat) (h : Scanner) : ReadResult × Scanner :=
  if n ≤ h.src.bytes.length then
    (.full (h.src.bytes.take n), { h with pos := h.pos + n, src := { h.src with bytes := h.src.bytes.drop n } })
  else
    match h.src.ending with
    | .ioErr e => (.ioErr e, h)
    | .eos =>
      if h.src.bytes = [] then (.eos, h)
      else (.short h.src.bytes.length,
        { h with pos := h.pos + h.src.bytes.length, src := { h.src with bytes := [] } })

/-! ### Answers (R220, R227, R229) -/

/-- The scan error kinds (R229). -/
inductive ScanError where
  | truncated
  | io (e : Nat)
  | invalidHeader (kind : HeaderError)
  | unsupportedFreeFormat
  deriving DecidableEq, Repr

/-- What next_frame() returns (R220). -/
inductive Answer where
  /-- Ok(Some(Frame)): the decoder's outputs as the header, and the payload bytes (R223, R227). -/
  | frame (header : Regs) (payload : List Byte)
  /-- Ok(None). -/
  | none
  /-- Err(e). -/
  | err (e : ScanError)
  deriving DecidableEq, Repr

/-! ### next_frame() (R223) -/

/-- The word of the four header bytes (20_memory.md R52). `srcRead 4` delivers exactly four. -/
def headerWordOf (bs : List Byte) : Word := packWord (bs.getD 0 0) (bs.getD 1 0) (bs.getD 2 0) (bs.getD 3 0)

/-- state := Exhausted. -/
def exhaust (s : State) : State := { s with host := { s.host with mode := .exhausted } }

/-- The host presents a word in a cycle with in_valid = 1 (R231): that edge comes before whatever else is listed (log 14). -/
def present (w : Word) (s : State) : State := { s with feed := .edge (wordPorts w) :: s.feed }

/-- 'perform DECODE W on the MFHD; read its outputs after the edge': one step with the word presented. -/
def performDecode (w : Word) (s : State) : Host.Outcome State Fault Refusal := step (present w s)

/-- The payload read (R226): exactly `out_plen` bytes. Only a draw before the first RESET can be 0 here (log 26). -/
def readPayload (s : State) : State × Answer :=
  match srcRead s.regs.outPlen.toNat s.host with
  | (.full p, h) => ({ s with host := h }, .frame s.regs p)
  | (.eos, h) => (exhaust { s with host := h }, .err .truncated)
  | (.short _, h) => (exhaust { s with host := h }, .err .truncated)
  | (.ioErr e, h) => (exhaust { s with host := h }, .err (.io e))

/-- After the DECODE edge: an error code, then free format, then the payload (R223, R225). -/
def afterDecode (s : State) : State × Answer :=
  if s.regs.outErr ≠ 0 then (exhaust s, .err (.invalidHeader (kindOf s.regs.outErr)))
  else if s.regs.outFree = 1 then (exhaust s, .err .unsupportedFreeFormat)
  else readPayload s

/-- next_frame() (R223). It stops only where the MFHD's step does. -/
def nextFrame (s : State) : Host.Outcome (State × Answer) Fault Refusal :=
  match s.host.mode with
  | .exhausted => .next (s, .none)
  | .scanning =>
    match srcRead 4 s.host with
    | (.eos, h) => .next (exhaust { s with host := h }, .none)
    | (.short _, h) => .next (exhaust { s with host := h }, .err .truncated)
    | (.ioErr e, h) => .next (exhaust { s with host := h }, .err (.io e))
    | (.full bs, h) =>
      match performDecode (headerWordOf bs) { s with host := h } with
      | .next s' => .next (afterDecode s')
      | .fault r => .fault r
      | .refused r => .refused r

/-- `n` calls of next_frame(), their answers in order. -/
def nextFrames : Nat → State → Host.Outcome (State × List Answer) Fault Refusal
  | 0, s => .next (s, [])
  | n + 1, s =>
    match nextFrame s with
    | .fault r => .fault r
    | .refused r => .refused r
    | .next (s', a) =>
      match nextFrames n s' with
      | .fault r => .fault r
      | .refused r => .refused r
      | .next (s'', as) => .next (s'', a :: as)

end Sys2Proof.Machine
end

