-- ==== Sys2Proof/Safety.lean ====
section
/-! DEFINITION. What claims call a clean run, and the register values the spec allows. -/

namespace Sys2Proof.Machine

/-- Every edge the host presents meets setup and hold, and neither the clock nor the power stops: the cycles the spec gives an
effect (40_interface_ops.md R100, 70_reset_and_hazards.md R248). -/
def isEdge : Event → Bool
  | .edge _ => true
  | .unstable => false
  | .contended => false
  | .clockStopped => false
  | .powerCycle => false

/-- Nothing but clean edges is listed. -/
abbrev CleanFeed (s : State) : Prop := ∀ e ∈ s.feed, isEdge e = true

/-- Power stays on: no power cycle is listed. -/
abbrev Powered (s : State) : Prop := .powerCycle ∉ s.feed

/-- A RESET edge has come since power was applied. Until one has, no register holds a value the spec gives
(70_reset_and_hazards.md R242), and R244 has the host reset first. -/
abbrev AfterReset (s : State) : Prop := s.resetDone = true

/-- The words that decode successfully (41_header_decode.md R140). -/
abbrev Decodable (w : Word) : Prop :=
  fSync w = 0x7FF ∧ fVer w ≠ 0b01 ∧ fLayer w ≠ 0b00 ∧ fBri w ≠ 15 ∧ fSri w ≠ 3

/-- The decodable words with a frame length (30_encoding.md R74, classes 7 to 15). -/
abbrev HasLength (w : Word) : Prop := Decodable w ∧ fBri w ≠ 0

/-- `out_err` holds a code the spec writes (60_exceptions.md R200), and an error leaves every register but `out_valid`,
`out_hdr` and `out_err` at 0 (R201). -/
abbrev ErrorLegal (r : Regs) : Prop :=
  r.outErr.toNat ≤ 4 ∧
  (r.outErr ≠ 0 → r = { Regs.zero with outValid := r.outValid, outHdr := r.outHdr, outErr := r.outErr })

/-- The status flags agree with one another and with the length registers (10_state.md R31, R32, R28; 43_frame_length.md
R187, R189, R190). -/
abbrev LengthLegal (r : Regs) : Prop :=
  (r.outFree = 1 → r.outErr = 0 ∧ r.outLvalid = 0 ∧ r.outBri = 0) ∧
  (r.outLvalid = 1 → r.outErr = 0 ∧ r.outFree = 0 ∧ r.outKbps ≠ 0 ∧ 32 ≤ r.outFlen.toNat ∧ r.outFlen.toNat ≤ 2881 ∧
    r.outPlen.toNat + 4 = r.outFlen.toNat) ∧
  (r.outLvalid = 0 → r.outKbps = 0 ∧ r.outFlen = 0 ∧ r.outPlen = 0) ∧
  (r.outValid = 1 → r.outErr = 0 → r.outFree = 1 ∨ r.outLvalid = 1)

/-- No field register holds an illegal code (30_encoding.md R76; layer '00' 'never with out_err = 0' of a decode, 10_state.md R29),
and the mode-extension registers hold one variant (10_state.md R28, R25). -/
abbrev FieldLegal (r : Regs) : Prop :=
  r.outVer ≠ 0b01 ∧ r.outBri ≠ 15 ∧ r.outSri ≠ 3 ∧ r.outHz.toNat ≤ 48000 ∧
  (r.outFree = 1 ∨ r.outLvalid = 1 → r.outLayer ≠ 0b00) ∧
  (r.outMxk = 1 → r.outLayer = 0b01 ∧ r.outBands = 0) ∧
  (r.outMxk = 0 → r.outIs = 0 ∧ r.outMs = 0 ∧ r.outLayer ≠ 0b01 ∧
    (r.outBands = 0 ∨ r.outBands = 4 ∨ r.outBands = 8 ∨ r.outBands = 12 ∨ r.outBands = 16))

/-- The register values the spec allows at any time after the first RESET. -/
abbrev RegsLegal (r : Regs) : Prop := ErrorLegal r ∧ LengthLegal r ∧ FieldLegal r

/-- The invariant: after the first RESET the registers are legal. -/
abbrev Legal (s : State) : Prop := AfterReset s → RegsLegal s.regs

/-- The registers hold the reset zeros, or all of the decode of the word in `out_hdr` but for `out_valid`, which an IDLE lowers
(40_interface_ops.md R101 to R103, 10_state.md R34). -/
abbrev Tracks (r : Regs) : Prop :=
  r = Regs.zero ∨ r = { resultRegs r.outHdr (decodeWord r.outHdr) with outValid := r.outValid }

/-- The invariant: after the first RESET the registers track the word in `out_hdr`. -/
abbrev Tracking (s : State) : Prop := AfterReset s → Tracks s.regs

/-- The host is in its state Scanning (60_exceptions.md R220). -/
abbrev Scanning (s : State) : Prop := s.host.mode = .scanning

/-- The host is Scanning over a chip it has reset, as R244 asks (60_exceptions.md R220, 70_reset_and_hazards.md R242). -/
abbrev ScanningReset (s : State) : Prop := Scanning s ∧ AfterReset s

end Sys2Proof.Machine
end

