-- ==== Sys2Proof/Certificates/Slice0/Obligations.lean ====
section
/-! DEFINITION. The statements for the provers. `Sys2Proof.Claims` holds the rules' own numbers and expressions, written a second time
from the spec and apart from the model's definitions. -/

namespace Sys2Proof.Claims

open Sys2Proof.Machine

/-- The state one edge later with every register drawn: what any edge but a RESET leaves before the first RESET after power-up
(70_reset_and_hazards.md R242, log 25). The sample is consumed, and nothing else changes but the count of draws. -/
def drawnEdge (s : State) : State := { s with regs := powerUpRegs s.draws, feed := s.feed.tail, draws := s.draws + 1 }

/-- The state one edge later with these registers: the sample is consumed, nothing else changes. -/
def edgeTo (s : State) (r : Regs) : State := { s with regs := r, feed := s.feed.tail }

/-- The state after a RESET edge: every register 0, the sample consumed, a RESET done, nothing else changed. -/
def resetTo (s : State) : State := { s with regs := Regs.zero, feed := s.feed.tail, resetDone := true }

/-- The registers after a DECODE of `w` that fails with this code (10_state.md R28, column 'on fail'; 60_exceptions.md R201). -/
def errorRegs (w : Word) (code : BitVec 3) : Regs := { Regs.zero with outValid := 1, outHdr := w, outErr := code }

/-- The kbps list of a version and layer code for index 1 to 14 (42_lut.md R160 to R165, by the codes of 30_encoding.md R73). The
cells but four are UNVERIFIED (log 2). -/
def kbpsList (ver layer : BitVec 2) : List Nat :=
  if ver = 0b11 then
    if layer = 0b11 then [32, 64, 96, 128, 160, 192, 224, 256, 288, 320, 352, 384, 416, 448]
    else if layer = 0b10 then [32, 48, 56, 64, 80, 96, 112, 128, 160, 192, 224, 256, 320, 384]
    else [32, 40, 48, 56, 64, 80, 96, 112, 128, 160, 192, 224, 256, 320]
  else if layer = 0b11 then [32, 48, 56, 64, 80, 96, 112, 128, 144, 160, 176, 192, 224, 256]
  else [8, 16, 24, 32, 40, 48, 56, 64, 80, 96, 112, 128, 144, 160]

/-- The Hz list of a version code for index 0 to 2 (42_lut.md R167 to R170). The cells but two are UNVERIFIED (log 2). -/
def hzList (ver : BitVec 2) : List Nat :=
  if ver = 0b11 then [44100, 48000, 32000] else if ver = 0b10 then [22050, 24000, 16000] else [11025, 12000, 8000]

/-- The one expression of 43_frame_length.md R185, by the layer code. -/
def lengthRule (layer : BitVec 2) (kbps hz : Nat) (pad : Bit) : Nat :=
  (if layer = 0b11 then 384 else 1152) * (kbps * 125) / hz +
    (if pad = 0 then 0 else if layer = 0b11 then 4 else 1)

/-- The registers after a DECODE of `w` that succeeds (10_state.md R28, column 'on ok'), given what the bitrate, the sampling rate
and the frame length set. The mode-extension maps and `out_crc` are UNVERIFIED (log 3, log 4). -/
def okColumn (w : Word) (free lvalid : Bit) (kbps hz flen plen : Nat) : Regs :=
  { outValid := 1, outHdr := w, outErr := 0, outVer := fVer w, outLayer := fLayer w, outProt := fProt w,
    outCrc := if fProt w = 0 then 1 else 0, outBri := fBri w, outFree := free, outKbps := BitVec.ofNat 16 kbps,
    outSri := fSri w, outHz := BitVec.ofNat 16 hz, outPad := fPad w, outPriv := fPriv w, outMode := fMode w,
    outMext := fMext w, outMxk := if fLayer w = 0b01 then 1 else 0,
    outBands := if fLayer w = 0b01 then 0 else BitVec.ofNat 5 (4 * ((fMext w).toNat + 1)),
    outIs := if fLayer w = 0b01 then w.extractLsb' 4 1 else 0,
    outMs := if fLayer w = 0b01 then w.extractLsb' 5 1 else 0,
    outCopy := fCopy w, outOrig := fOrig w, outEmph := fEmph w, outLvalid := lvalid, outFlen := BitVec.ofNat 16 flen,
    outPlen := BitVec.ofNat 16 plen }

/-- The outcome is the next state a DECODE of a word with an indexed bitrate gives: every register of R28, and nothing else but
the consumed sample. -/
def IndexedOutcome (w : Word) (s : State) (o : Host.Outcome State Fault Refusal) : Prop :=
  ∃ k h, (kbpsList (fVer w) (fLayer w))[(fBri w).toNat - 1]? = some k ∧ (hzList (fVer w))[(fSri w).toNat]? = some h ∧
    o = .next (edgeTo s (okColumn w 0 1 k h (lengthRule (fLayer w) k h (fPad w)) (lengthRule (fLayer w) k h (fPad w) - 4)))

/-- The outcome is the next state a DECODE of a decodable word with bitrate index 0 gives. -/
def FreeOutcome (w : Word) (s : State) (o : Host.Outcome State Fault Refusal) : Prop :=
  ∃ h, (hzList (fVer w))[(fSri w).toNat]? = some h ∧ o = .next (edgeTo s (okColumn w 1 0 0 h 0 0))

/-- The code of the earliest failing step, 0 if none fails (60_exceptions.md R200, R206). -/
def earliestError (w : Word) : BitVec 3 :=
  if fSync w ≠ 0x7FF then 1
  else if fLayer w = 0b00 then 2
  else if fBri w = 15 then 3
  else if fVer w = 0b01 ∨ fSri w = 3 then 4
  else 0

/-- The stream bytes of one frame: the header, then the payload. -/
def frameBytes (f : Word × List Byte) : List Byte := wordBytes f.1 ++ f.2

/-- The registers a DECODE of `w` leaves. -/
def decoded (w : Word) : Regs := resultRegs w (decodeWord w)

/-- A valid frame (60_exceptions.md R230): a header with an indexed bitrate and exactly `out_plen` payload bytes. -/
def ValidFrame (f : Word × List Byte) : Prop := HasLength f.1 ∧ f.2.length = (decoded f.1).outPlen.toNat

end Sys2Proof.Claims

open Sys2Proof Sys2Proof.Machine Sys2Proof.Claims

/-! ### Encoding -/

/-- Decoding an encoded well-formed instruction gives it back, for every instruction and every operand value. -/
def Obligations.DecodeOfEncodeIsInstruction : Prop :=
  ∀ i : Instr, WellFormed i → decodeEncoded (encode i) = i

/-- Every word has a class, is the encoding of that well-formed class member, and is the encoding of no other (R74). -/
def Obligations.EveryWordHasExactlyOneClass : Prop :=
  ∀ w : Word, WellFormed (decodeHeader w) ∧ encode (decodeHeader w) = .hdr32 w ∧
    ∀ i : Instr, WellFormed i → encode i = .hdr32 w → i = decodeHeader w

/-- The class of a word by the conditions of R74, tried in order. -/
def Obligations.ClassConditionsInOrder : Prop :=
  ∀ w : Word,
    (fSync w ≠ 0x7FF → decodeHeader w = .hdrBadsync (fSync w) (fVer w) (fLayer w) (fBri w) (fSri w) (fRest w)) ∧
    (fSync w = 0x7FF → fLayer w = 0b00 →
      decodeHeader w = .hdrBadlayer (versionOf (fVer w)) (fBri w) (fSri w) (fRest w)) ∧
    (∀ l, fSync w = 0x7FF → fLayer w = layerCode l →
      (fBri w = 15 → decodeHeader w = .hdrBadbitrate (versionOf (fVer w)) l (fSri w) (fRest w)) ∧
      (fBri w ≠ 15 → fVer w = 0b01 → decodeHeader w = .hdrBadsrResver l (fBri w) (fSri w) (fRest w)) ∧
      (fBri w ≠ 15 → fVer w ≠ 0b01 → fSri w = 3 →
        decodeHeader w = .hdrBadsrIdx3 (versionOf (fVer w)) l (fBri w) (fRest w)) ∧
      (fBri w = 0 → fVer w ≠ 0b01 → fSri w ≠ 3 →
        decodeHeader w = .hdrFreefmt (versionOf (fVer w)) l (fSri w) (fRest w)) ∧
      (fBri w ≠ 0 → fBri w ≠ 15 → fVer w ≠ 0b01 → fSri w ≠ 3 →
        decodeHeader w = indexedClass (versionOf (fVer w)) l (fBri w) (fSri w) (fRest w)))

/-- The bytes of a well-formed instruction decode to it and leave the bytes after them; too few bytes are rejected by name. The byte
layout of a `cmd` operation is the model's (log 16). -/
def Obligations.BytesDecodeAndShortBytesAreRejected : Prop :=
  (∀ (i : Instr) (rest : List Byte), WellFormed i →
    decodeBytes (formatOf (encode i)) (encodeBytes i ++ rest) = .ok (i, rest)) ∧
  (∀ bs : List Byte, bs.length < 4 → decodeBytes .hdr32 bs = .error .truncated) ∧
  (∀ bs : List Byte, bs.length < 5 → decodeBytes .cmd bs = .error .truncated)

/-- The n-th bit of the header in stream order (n from 1) is W[32 - n] (R52). -/
def Obligations.StreamBitOrder : Prop :=
  ∀ (b0 b1 b2 b3 : Byte) (n : Nat), 1 ≤ n → n ≤ 32 →
    (packWord b0 b1 b2 b3).getLsbD (32 - n) = ([b0, b1, b2, b3].getD ((n - 1) / 8) 0).getLsbD (7 - (n - 1) % 8)

/-- Words of 95_test_vectors.md (S2, S9, S11, S8, S17, S14, F1, S29, S1, F11, F9) decode to the classes they are listed for, and the
four vectors of rst and in_valid to the cycles R100 selects. That a vector given alone as table bits has zeros on in_hdr, so that
0b01 is a DECODE of the word 0, is the model's choice (log 15, log 16). -/
def Obligations.ListedWordsDecodeToTheirClass : Prop :=
  decodeTableWord 8 0b10 = some .reset ∧ decodeTableWord 8 0b11 = some .reset ∧
  decodeTableWord 8 0b01 = some (.decode 0) ∧ decodeTableWord 8 0b00 = some .idle ∧
  decodeTableWord 32 0xFEFB9000 = some (.hdrBadsync 0x7F7 3 1 9 0 ⟨1, 0, 0, 0, 0, 0, 0, 0⟩) ∧
  decodeTableWord 32 0xFFE9FC00 = some (.hdrBadlayer .reserved 15 3 ⟨1, 0, 0, 0, 0, 0, 0, 0⟩) ∧
  decodeTableWord 32 0xFFEBFC00 = some (.hdrBadbitrate .reserved .layerIII 3 ⟨1, 0, 0, 0, 0, 0, 0, 0⟩) ∧
  decodeTableWord 32 0xFFEB9000 = some (.hdrBadsrResver .layerIII 9 0 ⟨1, 0, 0, 0, 0, 0, 0, 0⟩) ∧
  decodeTableWord 32 0xFFFB9C00 = some (.hdrBadsrIdx3 .mpeg1 .layerIII 9 ⟨1, 0, 0, 0, 0, 0, 0, 0⟩) ∧
  decodeTableWord 32 0xFFFB0000 = some (.hdrFreefmt .mpeg1 .layerIII 0 ⟨1, 0, 0, 0, 0, 0, 0, 0⟩) ∧
  decodeTableWord 32 0xFFFF1400 = some (.hdrM1L1 1 1 ⟨1, 0, 0, 0, 0, 0, 0, 0⟩) ∧
  decodeTableWord 32 0xFFFD9000 = some (.hdrM1L2 9 0 ⟨1, 0, 0, 0, 0, 0, 0, 0⟩) ∧
  decodeTableWord 32 0xFFFB9000 = some (.hdrM1L3 9 0 ⟨1, 0, 0, 0, 0, 0, 0, 0⟩) ∧
  decodeTableWord 32 0xFFE7EA00 = some (.hdrM25L1 14 2 ⟨1, 1, 0, 0, 0, 0, 0, 0⟩) ∧
  decodeTableWord 32 0xFFF38000 = some (.hdrM2L3 8 0 ⟨1, 0, 0, 0, 0, 0, 0, 0⟩)

/-! ### The step -/

/-- Cycle selection (R100): one operation per edge, selected by rst and in_valid; total. -/
def Obligations.StepPerformsTheSelectedCycle : Prop :=
  ∀ (s : State) (p : Ports), nextEvent s = .edge p →
    (p.rst = 1 → step s = exec .reset s) ∧
    (p.rst = 0 → p.inValid = 1 → step s = exec (.decode p.inHdr) s) ∧
    (p.rst = 0 → p.inValid = 0 → step s = exec .idle s) ∧
    ∃ t, step s = .next t

/-- A step with an instruction on the ports, given as the opcode table numbers its bits, is `exec` of the instruction the decoder
reads from those bits, a cycle or a header class. How table bits are put on the ports is the model's choice (log 15): at most 8 bits
are a `cmd` row with zeros on in_hdr, 32 bits a header word, and the event listed first is replaced. -/
def Obligations.StepRunsTheFetchedInstruction : Prop :=
  ∀ (s : State) (nbits w : Nat) (i : Instr), decodeTableWord nbits w = some i →
    step (s.withFetchWord nbits w) = exec i (s.withFetchWord nbits w)

/-- A DECODE cycle of a word is the class row of that word: the pseudocode of R121 and the class map of R74 agree. -/
def Obligations.DecodeIsItsHeaderClass : Prop :=
  ∀ (w : Word) (s : State), exec (.decode w) s = exec (decodeHeader w) s

/-- With nothing listed the host has no word, and the edge is an IDLE. The model's choice (log 1, after R244). -/
def Obligations.NoWordListedIsIdle : Prop :=
  ∀ s : State, s.feed = [] → step s = exec .idle s

/-- What lies outside the clean edges: refused by name, or stuck. The model's choice of form (log 9, 10, 11), after the treatments
of 93_implementation_defined.md I7, I9 and I8. -/
def Obligations.OutsideEventsStopByName : Prop :=
  ∀ s : State,
    (nextEvent s = .unstable → step s = .refused .unstableInputs) ∧
    (nextEvent s = .contended → step s = .refused .twoHosts) ∧
    (nextEvent s = .clockStopped → step s = .fault .clockStopped)

/-- A power cycle leaves every register whatever it drew, and one RESET edge after it leaves every register 0, whatever the ports
carried beside rst = 1. The power cycle as an event, and that the host keeps its state over it, are the model's choice (log 8). -/
def Obligations.ResetAfterPowerUpClearsTheDraws : Prop :=
  ∀ (s : State) (p : Ports) (es : List Event), s.feed = .powerCycle :: .edge p :: es → p.rst = 1 →
    step s = .next { s with regs := powerUpRegs s.draws, feed := .edge p :: es, draws := s.draws + 1, resetDone := false } ∧
    Host.Core.run Sys2Proof.core 2 s =
      .next { s with regs := Regs.zero, feed := es, draws := s.draws + 1, resetDone := true }

/-! ### The cycles

`AfterReset s` says that a RESET has come since power was applied. Before it the spec gives no register a value (R242); what the
instructions do then is stated in UnresetEdgesDrawEveryRegister. -/

/-- RESET (R103, R240): every register 0, nothing else changed but the consumed sample, and the first RESET after power-up done. -/
def Obligations.ResetClearsEveryRegister : Prop :=
  ∀ s : State, ∃ t, exec .reset s = .next t ∧
    t.regs.outValid = 0 ∧ t.regs.outHdr = 0 ∧ t.regs.outErr = 0 ∧ t.regs.outVer = 0 ∧ t.regs.outLayer = 0 ∧
    t.regs.outMode = 0 ∧ t.regs.outMext = 0 ∧ t.regs.outEmph = 0 ∧ t.regs.outSri = 0 ∧ t.regs.outProt = 0 ∧
    t.regs.outCrc = 0 ∧ t.regs.outFree = 0 ∧ t.regs.outPad = 0 ∧ t.regs.outPriv = 0 ∧ t.regs.outMxk = 0 ∧
    t.regs.outIs = 0 ∧ t.regs.outMs = 0 ∧ t.regs.outCopy = 0 ∧ t.regs.outOrig = 0 ∧ t.regs.outLvalid = 0 ∧
    t.regs.outBri = 0 ∧ t.regs.outKbps = 0 ∧ t.regs.outHz = 0 ∧ t.regs.outFlen = 0 ∧ t.regs.outPlen = 0 ∧
    t.regs.outBands = 0 ∧ t = resetTo s

/-- Reset priority (R241): at an edge with rst = 1 the next state has every register 0 and does not depend on in_valid or in_hdr. -/
def Obligations.ResetBeatsInValid : Prop :=
  ∀ (s : State) (inValid : Bit) (w : Word), nextEvent s = .edge ⟨1, inValid, w⟩ → step s = .next (resetTo s)

/-- IDLE (R102): out_valid 0, every other register as it was, nothing else changed but the consumed sample; an edge with rst = 0 and
in_valid = 0 does exactly that, whatever in_hdr carries. -/
def Obligations.IdleLowersValidAndKeepsTheRest : Prop :=
  ∀ s : State, AfterReset s → exec .idle s = .next (edgeTo s { s.regs with outValid := 0 }) ∧
    ∀ w : Word, nextEvent s = .edge ⟨0, 0, w⟩ → step s = .next (edgeTo s { s.regs with outValid := 0 })

/-- A word outside R140's set fails: the code of the earliest failing step, the word itself, every other register 0 (R201, R206). -/
def Obligations.FailedDecodeReportsEarliestError : Prop :=
  ∀ (w : Word) (s : State), AfterReset s → ¬ Decodable w →
    exec (.decode w) s = .next (edgeTo s (errorRegs w (earliestError w))) ∧ earliestError w ≠ 0

/-- decode(W) succeeds if and only if W is in R140's set. -/
def Obligations.SuccessSet : Prop :=
  ∀ w : Word, (∃ h, decodeWord w = .ok h) ↔
    (fSync w = 0x7FF ∧ fVer w ≠ 0b01 ∧ fLayer w ≠ 0b00 ∧ fBri w ≠ 15 ∧ fSri w ≠ 3)

/-- The whole 'on ok' column of R28 for an indexed bitrate: tables, frame length and every field register. The table cells and the
mode-extension and CRC maps are the spec's general knowledge (log 2, 3, 4). -/
def Obligations.IndexedDecodeWritesEveryRegister : Prop :=
  ∀ (w : Word) (s : State), AfterReset s → HasLength w → IndexedOutcome w s (exec (.decode w) s)

/-- The whole 'on ok' column of R28 for bitrate index 0. The sampling rate and the mode-extension and CRC maps are the spec's
general knowledge (log 2, 3, 4). -/
def Obligations.FreeFormatDecodeWritesEveryRegister : Prop :=
  ∀ (w : Word) (s : State), AfterReset s → Decodable w → fBri w = 0 → FreeOutcome w s (exec (.decode w) s)

/-- Free format (R127): the decode completes with no error, out_free = 1, out_lvalid = 0, out_kbps, out_flen and out_plen 0; but a
word with a Reserved version or sampling index 3 still fails. -/
def Obligations.FreeFormatHasNoLength : Prop :=
  ∀ (w : Word) (s : State), AfterReset s → fSync w = 0x7FF → fLayer w ≠ 0b00 → fBri w = 0 →
    ∃ t, exec (.decode w) s = .next t ∧
    (if fVer w = 0b01 ∨ fSri w = 3 then t.regs.outErr = 4 ∧ t.regs.outFree = 0
     else t.regs.outErr = 0 ∧ t.regs.outFree = 1 ∧ t.regs.outKbps = 0 ∧ t.regs.outLvalid = 0 ∧ t.regs.outFlen = 0 ∧
       t.regs.outPlen = 0)

/-- DECODE does not look at the state: from any two states after a RESET a word leaves the same registers (R34, R105). -/
def Obligations.DecodeForgetsTheState : Prop :=
  ∀ (w : Word) (s s' : State), AfterReset s → AfterReset s' → ∃ t t',
    exec (.decode w) s = .next t ∧ exec (.decode w) s' = .next t' ∧ t.regs = t'.regs

/-- Back-to-back DECODEs (R104, R246): the whole first result, its word and its error code among it, stands after the first edge, and
the second replaces it after the second edge as if the first had never been (R208). -/
def Obligations.BackToBackDecodes : Prop :=
  ∀ (s : State) (v w : Word) (es : List Event), AfterReset s →
    s.feed = .edge (wordPorts v) :: .edge (wordPorts w) :: es → ∃ t u,
      Host.Core.run Sys2Proof.core 1 s = .next t ∧ t.regs = decoded v ∧ t.regs.outHdr = v ∧ t.regs.outErr = earliestError v ∧
      Host.Core.run Sys2Proof.core 2 s = .next u ∧
      exec (.decode w) { s with feed := .edge (wordPorts w) :: es } = .next u

/-! ### The header classes -/

/-- The five failing classes: the class's error code, the word, every other register 0, nothing else changed but the sample. -/
def Obligations.FailingClassesReportTheirCode : Prop :=
  (∀ sync ver layer bri sri m s, AfterReset s → sync ≠ 0x7FF → exec (.hdrBadsync sync ver layer bri sri m) s =
    .next (edgeTo s (errorRegs (hdrWord sync ver layer bri sri m) 1))) ∧
  (∀ ver bri sri m s, AfterReset s → exec (.hdrBadlayer ver bri sri m) s =
    .next (edgeTo s (errorRegs (hdrWord 0x7FF (versionCode ver) 0b00 bri sri m) 2))) ∧
  (∀ ver layer sri m s, AfterReset s → exec (.hdrBadbitrate ver layer sri m) s =
    .next (edgeTo s (errorRegs (hdrWord 0x7FF (versionCode ver) (layerCode layer) 15 sri m) 3))) ∧
  (∀ layer bri sri m s, AfterReset s → bri ≠ 15 → exec (.hdrBadsrResver layer bri sri m) s =
    .next (edgeTo s (errorRegs (hdrWord 0x7FF 0b01 (layerCode layer) bri sri m) 4))) ∧
  (∀ ver layer bri m s, AfterReset s → ver ≠ .reserved → bri ≠ 15 → exec (.hdrBadsrIdx3 ver layer bri m) s =
    .next (edgeTo s (errorRegs (hdrWord 0x7FF (versionCode ver) (layerCode layer) bri 3 m) 4)))

/-- HDR_FREEFMT completes for every member: every register of R28. Table cells and maps as log 2, 3, 4. -/
def Obligations.FreeFormatClassCompletes : Prop :=
  ∀ ver layer sri m s, AfterReset s → ver ≠ .reserved → sri ≠ 3 →
    FreeOutcome (hdrWord 0x7FF (versionCode ver) (layerCode layer) 0 sri m) s (exec (.hdrFreefmt ver layer sri m) s)

/-- HDR_M1_L1, HDR_M1_L2 and HDR_M1_L3 complete for every member: every register of R28. Table cells and maps as log 2, 3, 4. -/
def Obligations.Mpeg1ClassesComplete : Prop :=
  ∀ bri sri m s, AfterReset s → bri ≠ 0 → bri ≠ 15 → sri ≠ 3 →
    IndexedOutcome (hdrWord 0x7FF 0b11 0b11 bri sri m) s (exec (.hdrM1L1 bri sri m) s) ∧
    IndexedOutcome (hdrWord 0x7FF 0b11 0b10 bri sri m) s (exec (.hdrM1L2 bri sri m) s) ∧
    IndexedOutcome (hdrWord 0x7FF 0b11 0b01 bri sri m) s (exec (.hdrM1L3 bri sri m) s)

/-- HDR_M2_L1, HDR_M2_L2 and HDR_M2_L3 complete for every member: every register of R28. Table cells and maps as log 2, 3, 4. -/
def Obligations.Mpeg2ClassesComplete : Prop :=
  ∀ bri sri m s, AfterReset s → bri ≠ 0 → bri ≠ 15 → sri ≠ 3 →
    IndexedOutcome (hdrWord 0x7FF 0b10 0b11 bri sri m) s (exec (.hdrM2L1 bri sri m) s) ∧
    IndexedOutcome (hdrWord 0x7FF 0b10 0b10 bri sri m) s (exec (.hdrM2L2 bri sri m) s) ∧
    IndexedOutcome (hdrWord 0x7FF 0b10 0b01 bri sri m) s (exec (.hdrM2L3 bri sri m) s)

/-- HDR_M25_L1, HDR_M25_L2 and HDR_M25_L3 complete for every member: every register of R28. Table cells and maps as log 2, 3, 4. -/
def Obligations.Mpeg25ClassesComplete : Prop :=
  ∀ bri sri m s, AfterReset s → bri ≠ 0 → bri ≠ 15 → sri ≠ 3 →
    IndexedOutcome (hdrWord 0x7FF 0b00 0b11 bri sri m) s (exec (.hdrM25L1 bri sri m) s) ∧
    IndexedOutcome (hdrWord 0x7FF 0b00 0b10 bri sri m) s (exec (.hdrM25L2 bri sri m) s) ∧
    IndexedOutcome (hdrWord 0x7FF 0b00 0b01 bri sri m) s (exec (.hdrM25L3 bri sri m) s)

/-! ### Fields, tables and lengths -/

/-- The mode extension follows the layer alone, for every channel mode (R134, R135, R138). The two maps are the spec's general
knowledge (log 3); `out_mext` is the raw code. -/
def Obligations.ModeExtensionFollowsTheLayer : Prop :=
  ∀ (w : Word) (s : State), AfterReset s → Decodable w → ∃ t, exec (.decode w) s = .next t ∧ t.regs.outMext = fMext w ∧
    (if fLayer w = 0b01 then
      t.regs.outMxk = 1 ∧ t.regs.outBands = 0 ∧ t.regs.outIs = w.extractLsb' 4 1 ∧ t.regs.outMs = w.extractLsb' 5 1
     else t.regs.outMxk = 0 ∧ t.regs.outBands.toNat = 4 * ((fMext w).toNat + 1) ∧ t.regs.outIs = 0 ∧ t.regs.outMs = 0)

/-- A record H that decode(W) returns has the variant its layer determines, and never the version Reserved (R26, R27). -/
def Obligations.RecordVariantFollowsTheLayer : Prop :=
  ∀ (w : Word) (h : Header), decodeWord w = .ok h → h.version ≠ .reserved ∧
    ((h.layer = .layerIII ∧ ∃ i m, h.modeExtension = .stereo i m) ∨
     (h.layer ≠ .layerIII ∧ ∃ n, h.modeExtension = .bands n ∧ (n = 4 ∨ n = 8 ∨ n = 12 ∨ n = 16)))

/-- Every decoded header word can be rebuilt from the output registers (R139). -/
def Obligations.RegistersRebuildTheWord : Prop :=
  ∀ (w : Word) (s : State), AfterReset s → Decodable w → ∃ t, exec (.decode w) s = .next t ∧
    w.toNat = 0xFFE00000 + t.regs.outVer.toNat * 2 ^ 19 + t.regs.outLayer.toNat * 2 ^ 17 + t.regs.outProt.toNat * 2 ^ 16 +
      t.regs.outBri.toNat * 2 ^ 12 + t.regs.outSri.toNat * 2 ^ 10 + t.regs.outPad.toNat * 2 ^ 9 +
      t.regs.outPriv.toNat * 2 ^ 8 + t.regs.outMode.toNat * 2 ^ 6 + t.regs.outMext.toNat * 2 ^ 4 +
      t.regs.outCopy.toNat * 2 ^ 3 + t.regs.outOrig.toNat * 2 ^ 2 + t.regs.outEmph.toNat

/-- In each bitrate table the entries strictly increase with the index from 1 to 14 (R172). Cells as log 2. -/
def Obligations.BitrateTablesIncrease : Prop :=
  ∀ (t : BrTable) (i j : BitVec 4), i ≠ 0 → i < j → j ≠ 15 → brLut t i < brLut t j

/-- The frame length in out_flen is R185's expression of the layer, out_kbps, out_hz and the padding bit, and out_plen is 4 less. -/
def Obligations.FrameLengthFormula : Prop :=
  ∀ (w : Word) (s : State), AfterReset s → HasLength w → ∃ t, exec (.decode w) s = .next t ∧ t.regs.outLvalid = 1 ∧
    t.regs.outFlen.toNat =
      (if fLayer w = 0b11 then 384 else 1152) * (t.regs.outKbps.toNat * 125) / t.regs.outHz.toNat +
        (if fPad w = 0 then 0 else if fLayer w = 0b11 then 4 else 1) ∧
    t.regs.outPlen.toNat = t.regs.outFlen.toNat - 4

/-- frame_size(H) is the source's formula: undefined exactly for FreeFormat (R180), else base size plus padding (R181 to R185). -/
def Obligations.FrameSizeOfRecord : Prop :=
  ∀ h : Header, frameSize h =
    match h.bitrate with
    | .freeFormat => none
    | .indexed k => some ((if h.layer = .layerI then 384 else 1152) * (k.toNat * 125) / h.samplingRate.toNat +
        (if h.padding = 0 then 0 else if h.layer = .layerI then 4 else 1))

/-- For a fixed layer, padding bit and sampling rate the length does not decrease as kbps grows; for a fixed kbps it does not
increase as the sampling rate grows (R188). -/
def Obligations.FrameLengthIsMonotone : Prop :=
  (∀ l pad (k k' hz : Half), k ≤ k' → frameLength l k hz pad ≤ frameLength l k' hz pad) ∧
  (∀ l pad (k hz hz' : Half), hz ≠ 0 → hz ≤ hz' → frameLength l k hz' pad ≤ frameLength l k hz pad)

/-- Over every word with a frame length: 32 to 2881 bytes, both reached, and out_plen at least 28 (R189, R190). Cells as log 2. -/
def Obligations.FrameLengthBounds : Prop :=
  (∀ (w : Word) (s : State), AfterReset s → HasLength w → ∃ t, exec (.decode w) s = .next t ∧
    32 ≤ t.regs.outFlen.toNat ∧ t.regs.outFlen.toNat ≤ 2881 ∧ 28 ≤ t.regs.outPlen.toNat ∧
    t.regs.outPlen.toNat + 4 = t.regs.outFlen.toNat) ∧
  (decoded 0xFFFF1400).outFlen = 32 ∧ (decoded 0xFFE3EA00).outFlen = 2881

/-- Two words that agree in version, layer, bitrate index, sampling index and padding have the same lengths (R191). -/
def Obligations.OtherFieldsDoNotEnterTheLength : Prop :=
  ∀ (v w : Word) (s : State), AfterReset s → HasLength v →
    fSync w = fSync v → fVer w = fVer v → fLayer w = fLayer v → fBri w = fBri v →
    fSri w = fSri v → fPad w = fPad v → ∃ t u, exec (.decode v) s = .next t ∧ exec (.decode w) s = .next u ∧
      u.regs.outFlen = t.regs.outFlen ∧ u.regs.outPlen = t.regs.outPlen ∧ u.regs.outLvalid = t.regs.outLvalid

/-- Padding compensation (R184): with the padding bit set, a frame is one slot longer than without, 4 bytes for LayerI and 1 byte
otherwise. -/
def Obligations.PaddingAddsOneSlot : Prop :=
  ∀ (ver layer : BitVec 2) bri sri (m : HdrRest) (s : State),
    AfterReset s → HasLength (hdrWord 0x7FF ver layer bri sri { m with pad := 0 }) →
    ∃ t u, exec (.decode (hdrWord 0x7FF ver layer bri sri { m with pad := 0 })) s = .next t ∧
      exec (.decode (hdrWord 0x7FF ver layer bri sri { m with pad := 1 })) s = .next u ∧
      u.regs.outFlen.toNat = t.regs.outFlen.toNat + (if layer = 0b11 then 4 else 1)

/-! ### Whole-machine rules -/

/-- Exactly one of three holds after every DECODE: an error, free format, or a length (R32). -/
def Obligations.ExactlyOneStatusAfterDecode : Prop :=
  ∀ (w : Word) (s : State), AfterReset s → ∃ t, exec (.decode w) s = .next t ∧ t.regs.outValid = 1 ∧
    ((t.regs.outErr ≠ 0 ∧ t.regs.outFree = 0 ∧ t.regs.outLvalid = 0) ∨
     (t.regs.outErr = 0 ∧ t.regs.outFree = 1 ∧ t.regs.outLvalid = 0) ∨
     (t.regs.outErr = 0 ∧ t.regs.outFree = 0 ∧ t.regs.outLvalid = 1))

/-- out_valid is 1 after an edge that performed a DECODE and 0 after any other edge (R31), from the first RESET edge on. -/
def Obligations.ValidMarksExactlyTheDecodes : Prop :=
  ∀ (s : State) (p : Ports), AfterReset s ∨ p.rst = 1 → nextEvent s = .edge p → ∃ t, step s = .next t ∧
    (t.regs.outValid = 1 ↔ p.rst = 0 ∧ p.inValid = 1)

/-- Only DECODE raises an error (R202): an edge that selects RESET or IDLE leaves out_err 0 where it was 0, from the first
RESET edge on. -/
def Obligations.ErrorsComeFromDecodeAlone : Prop :=
  ∀ (s : State) (p : Ports), AfterReset s ∨ p.rst = 1 → nextEvent s = .edge p → ¬ (p.rst = 0 ∧ p.inValid = 1) →
    ∃ t, step s = .next t ∧ (s.regs.outErr = 0 → t.regs.outErr = 0)

/-- No input word makes the MFHD hang, stop accepting words, or change anything but its output registers (R205): along any number
of the listed clean edges it goes on, the host does not change, and one sample is consumed at each edge; after the first RESET no
free value is taken, either. -/
def Obligations.NoInputStopsTheMachine : Prop :=
  ∀ (n : Nat) (s : State), CleanFeed s → n ≤ s.feed.length → ∃ t, Host.Core.run Sys2Proof.core n s = .next t ∧
    t.host = s.host ∧ t.feed = s.feed.drop n ∧ (AfterReset s → t.draws = s.draws ∧ AfterReset t)

/-- The frame of every instruction: the host and every event after the sample are unchanged, RESET alone ends the time before the first
RESET, and a free value is taken by nothing but another instruction before it (log 25). It holds of every term of Instr; that a term
which stands for no word completes too is the model's choice (log 20). -/
def Obligations.InstructionsChangeRegistersAlone : Prop :=
  ∀ (i : Instr) (s : State), ∃ t, exec i s = .next t ∧ t.host = s.host ∧ t.feed = s.feed.tail ∧
    (i = .reset ∨ AfterReset s → t.draws = s.draws ∧ AfterReset t) ∧
    (i ≠ .reset → ¬ AfterReset s → t.draws = s.draws + 1 ∧ ¬ AfterReset t)

/-- Reset leaves every register legal, and the registers track the reset zeros. -/
def Obligations.ResetIsLegal : Prop :=
  AfterReset State.reset ∧ Legal State.reset ∧ Tracking State.reset ∧ State.reset.regs = Regs.zero ∧
    State.reset.host.mode = .scanning

/-- Every step, a power cycle among them, keeps the registers legal after the first RESET, and while power stays on it stays after it:
codes, flags, lengths and fields agree (R28, R29, R31, R32, R76, R189, R190, R200, R201). -/
def Obligations.StepKeepsRegistersLegal : Prop :=
  ∀ s t : State, Legal s → step s = .next t → Legal t ∧ (AfterReset s → Powered s → AfterReset t ∧ Powered t)

/-- Every step, a power cycle among them, keeps the registers after the first RESET either the reset zeros or the decode of the word in
out_hdr, and while power stays on it stays after it (R34). -/
def Obligations.StepKeepsRegistersTracking : Prop :=
  ∀ s t : State, Tracking s → step s = .next t → Tracking t ∧ (AfterReset s → Powered s → AfterReset t ∧ Powered t)

/-! ### The host -/

/-- next_frame() always answers: every failure is an error value (R205, R220). -/
def Obligations.NextFrameAlwaysAnswers : Prop :=
  ∀ s : State, ∃ s' a, nextFrame s = .next (s', a) ∧ s'.feed = s.feed ∧ s'.resetDone = s.resetDone ∧
    (AfterReset s → s'.draws = s.draws)

/-- After Exhausted every call returns Ok(None) and reads nothing (R228). -/
def Obligations.ExhaustedReadsNothing : Prop :=
  ∀ s : State, s.host.mode = .exhausted → nextFrame s = .next (s, .none)

/-- Header read outcomes (R224): a call made while Scanning returns Ok(None) only where zero bytes are available at the frame boundary,
and there it does; one to three bytes at the end of the source give Truncated, and a source that fails with none gives Io. One to three
bytes before a failure give an error; which one, log 13 settles (FailingHeaderReadIsIo). Each leaves the host Exhausted. -/
def Obligations.CleanEndOnlyAtABoundary : Prop :=
  ∀ s : State, Scanning s →
    (∀ s', nextFrame s = .next (s', .none) → s.host.src.bytes = [] ∧ s.host.src.ending = .eos) ∧
    (s.host.src.bytes = [] → s.host.src.ending = .eos →
      ∃ s', nextFrame s = .next (s', .none) ∧ s'.host.mode = .exhausted) ∧
    (1 ≤ s.host.src.bytes.length → s.host.src.bytes.length < 4 → s.host.src.ending = .eos →
      ∃ s', nextFrame s = .next (s', .err .truncated) ∧ s'.host.mode = .exhausted) ∧
    (∀ e, s.host.src.bytes = [] → s.host.src.ending = .ioErr e →
      ∃ s', nextFrame s = .next (s', .err (.io e)) ∧ s'.host.mode = .exhausted) ∧
    (∀ e, 1 ≤ s.host.src.bytes.length → s.host.src.bytes.length < 4 → s.host.src.ending = .ioErr e →
      ∃ s' kind, nextFrame s = .next (s', .err kind) ∧ s'.host.mode = .exhausted)

/-- A successful call stays in Scanning, returns the outputs and exactly the out_plen bytes after the header, and moves the position
by the frame length (R222, R223, R227). -/
def Obligations.SuccessfulCallConsumesOneFrame : Prop :=
  ∀ (w : Word) (p rest : List Byte) (s : State), ScanningReset s → ValidFrame (w, p) →
    s.host.src.bytes = frameBytes (w, p) ++ rest →
    ∃ s', nextFrame s = .next (s', .frame (decoded w) p) ∧ ScanningReset s' ∧ s'.regs = decoded w ∧
      s'.host.pos = s.host.pos + (decoded w).outFlen.toNat ∧ s'.host.src.bytes = rest ∧
      s'.host.src.ending = s.host.src.ending

/-- A header error and free format end the scan with their error (R225): the header's 4 bytes are consumed and the host is Exhausted. -/
def Obligations.HeaderErrorsEndTheScan : Prop :=
  ∀ (w : Word) (rest : List Byte) (s : State), ScanningReset s → s.host.src.bytes = wordBytes w ++ rest →
    (¬ Decodable w → ∃ s' kind, nextFrame s = .next (s', .err (.invalidHeader kind)) ∧ errCode kind = earliestError w ∧
      s'.host.mode = .exhausted ∧ s'.host.pos = s.host.pos + 4) ∧
    (Decodable w → fBri w = 0 → ∃ s', nextFrame s = .next (s', .err .unsupportedFreeFormat) ∧
      s'.host.mode = .exhausted ∧ s'.host.pos = s.host.pos + 4)

/-- A payload read that does not get out_plen bytes ends the scan: Truncated where the source ends, zero bytes among them, and Io
where it fails (R226). That a failure after some of the payload's bytes is Io, and not Truncated, is log 13; the rule's own case is a
failure with none. -/
def Obligations.ShortPayloadEndsTheScan : Prop :=
  ∀ (w : Word) (rest : List Byte) (s : State), ScanningReset s → HasLength w → s.host.src.bytes = wordBytes w ++ rest →
    rest.length < (decoded w).outPlen.toNat →
    ∃ s', s'.host.mode = .exhausted ∧
      nextFrame s = .next (s', .err (match s.host.src.ending with | .eos => .truncated | .ioErr e => .io e))

/-- Whatever a call answers, the position does not fall and the host stays or becomes Exhausted unless a frame is returned
(R222, R224 to R228). -/
def Obligations.PositionOnlyGrows : Prop :=
  ∀ s : State, ∃ s' a, nextFrame s = .next (s', a) ∧ s.host.pos ≤ s'.host.pos ∧
    ((∃ h p, a = .frame h p) ∨ s'.host.mode = .exhausted)

/-- End to end (R230): N valid frames give N frames and then Ok(None), and the host consumes exactly the sum of the frame lengths;
with one to three bytes left over the last call returns Truncated instead. -/
def Obligations.ScanReturnsEveryFrame : Prop :=
  ∀ (frames : List (Word × List Byte)) (left : List Byte) (s : State), (∀ f ∈ frames, ValidFrame f) → left.length < 4 →
    ScanningReset s → s.host.src = { bytes := frames.flatMap frameBytes ++ left, ending := .eos } →
    ∃ s', nextFrames (frames.length + 1) s = .next (s', frames.map (fun f => .frame (decoded f.1) f.2) ++
        [if left = [] then .none else .err .truncated]) ∧
      s'.host.mode = .exhausted ∧
      s'.host.pos = s.host.pos + (frames.map (fun f => (decoded f.1).outFlen.toNat)).sum + left.length

/-! ### The model's own choices about a longer run and a failing source -/

/-- Past the last listed event every edge is an IDLE, so any number of steps goes on: after the first RESET only out_valid falls, before
it the registers are draws and the host is unchanged. The model's choice (log 1, after R244 and R102, log 25). -/
def Obligations.RunsPastTheListAreIdle : Prop :=
  ∀ (n : Nat) (s : State), s.feed = [] →
    (AfterReset s →
      Host.Core.run Sys2Proof.core n s = .next (if n = 0 then s else { s with regs := { s.regs with outValid := 0 } })) ∧
    (¬ AfterReset s → Host.Core.run Sys2Proof.core n s =
      .next (if n = 0 then s else { s with regs := powerUpRegs (s.draws + n - 1), draws := s.draws + n }))

/-- A header read that a failing source cannot serve is Io, also with one to three bytes before the failure. That such a read is IoErr
and not Short is the model's reading of R221 (log 13); the answer to IoErr is R223's. -/
def Obligations.FailingHeaderReadIsIo : Prop :=
  ∀ (s : State) (e : Nat), Scanning s → s.host.src.bytes.length < 4 → s.host.src.ending = .ioErr e →
    ∃ s', nextFrame s = .next (s', .err (.io e)) ∧ s'.host.mode = .exhausted

/-! ### Before the first RESET -/

/-- Before the first RESET after power-up every instruction but RESET leaves every register a fresh draw, whatever its operands, and the
time before the first RESET goes on (R242). That each edge takes fresh draws, a DECODE's among them, is the model's choice (log 25). RESET
ends it with every register 0 (R240). -/
def Obligations.UnresetEdgesDrawEveryRegister : Prop :=
  ∀ s : State, ¬ AfterReset s →
    (∀ i : Instr, i ≠ .reset → exec i s = .next (drawnEdge s)) ∧ exec .reset s = .next (resetTo s)

/-- However many DECODE and IDLE edges come between a power cycle and the first RESET, after that RESET no register depends on what was
drawn: every one is 0 (R242, R240). -/
def Obligations.FirstResetEndsTheDraws : Prop :=
  ∀ (ps : List Ports) (q : Ports) (es : List Event) (s : State), (∀ p ∈ ps, p.rst = 0) → q.rst = 1 →
    s.feed = .powerCycle :: ps.map .edge ++ .edge q :: es →
    ∃ u t, Host.Core.run Sys2Proof.core (ps.length + 1) s = .next u ∧ ¬ AfterReset u ∧
      u.regs = powerUpRegs (s.draws + ps.length) ∧
      Host.Core.run Sys2Proof.core (ps.length + 2) s = .next t ∧ AfterReset t ∧ t.regs = Regs.zero ∧ t.feed = es
end

