-- ==== Sys2Proof/Laws/Decode.lean ====
section
/-! SUPPORT. The laws of the header word: its value, its fields, the codes of version and layer, and byte order. -/

namespace Sys2Proof

/-- Concatenation as arithmetic. -/
theorem append_toNat {a b : Nat} (x : BitVec a) (y : BitVec b) : (x ++ y).toNat = x.toNat * 2 ^ b + y.toNat := by
  rw [BitVec.toNat_append, Nat.shiftLeft_eq, Nat.mul_comm, Nat.two_pow_add_eq_or_of_lt y.isLt]

section Fields

variable (sync : BitVec 11) (ver layer : BitVec 2) (bri : BitVec 4) (sri : BitVec 2) (m : HdrRest)

/-- The word's value is the sum of its fields, each at its place (30_encoding.md R71). -/
theorem hdrWord_toNat : (hdrWord sync ver layer bri sri m).toNat =
    sync.toNat * 2 ^ 21 + ver.toNat * 2 ^ 19 + layer.toNat * 2 ^ 17 + m.prot.toNat * 2 ^ 16 + bri.toNat * 2 ^ 12 +
    sri.toNat * 2 ^ 10 + m.pad.toNat * 2 ^ 9 + m.priv.toNat * 2 ^ 8 + m.mode.toNat * 2 ^ 6 + m.mext.toNat * 2 ^ 4 +
    m.copy.toNat * 2 ^ 3 + m.orig.toNat * 2 ^ 2 + m.emph.toNat := by
  unfold hdrWord
  simp only [append_toNat]
  omega

/-- Every field is below its bound. -/
theorem fields_lt : sync.toNat < 2 ^ 11 ∧ ver.toNat < 2 ^ 2 ∧ layer.toNat < 2 ^ 2 ∧ m.prot.toNat < 2 ^ 1 ∧
    bri.toNat < 2 ^ 4 ∧ sri.toNat < 2 ^ 2 ∧ m.pad.toNat < 2 ^ 1 ∧ m.priv.toNat < 2 ^ 1 ∧ m.mode.toNat < 2 ^ 2 ∧
    m.mext.toNat < 2 ^ 2 ∧ m.copy.toNat < 2 ^ 1 ∧ m.orig.toNat < 2 ^ 1 ∧ m.emph.toNat < 2 ^ 2 :=
  ⟨sync.isLt, ver.isLt, layer.isLt, m.prot.isLt, bri.isLt, sri.isLt, m.pad.isLt, m.priv.isLt, m.mode.isLt, m.mext.isLt,
    m.copy.isLt, m.orig.isLt, m.emph.isLt⟩

@[simp] theorem fSync_hdrWord : fSync (hdrWord sync ver layer bri sri m) = sync := by
  apply BitVec.eq_of_toNat_eq
  have := fields_lt sync ver layer bri sri m
  simp only [fSync, BitVec.extractLsb'_toNat, hdrWord_toNat, Nat.shiftRight_eq_div_pow]
  omega

@[simp] theorem fVer_hdrWord : fVer (hdrWord sync ver layer bri sri m) = ver := by
  apply BitVec.eq_of_toNat_eq
  have := fields_lt sync ver layer bri sri m
  simp only [fVer, BitVec.extractLsb'_toNat, hdrWord_toNat, Nat.shiftRight_eq_div_pow]
  omega

@[simp] theorem fLayer_hdrWord : fLayer (hdrWord sync ver layer bri sri m) = layer := by
  apply BitVec.eq_of_toNat_eq
  have := fields_lt sync ver layer bri sri m
  simp only [fLayer, BitVec.extractLsb'_toNat, hdrWord_toNat, Nat.shiftRight_eq_div_pow]
  omega

@[simp] theorem fProt_hdrWord : fProt (hdrWord sync ver layer bri sri m) = m.prot := by
  apply BitVec.eq_of_toNat_eq
  have := fields_lt sync ver layer bri sri m
  simp only [fProt, BitVec.extractLsb'_toNat, hdrWord_toNat, Nat.shiftRight_eq_div_pow]
  omega

@[simp] theorem fBri_hdrWord : fBri (hdrWord sync ver layer bri sri m) = bri := by
  apply BitVec.eq_of_toNat_eq
  have := fields_lt sync ver layer bri sri m
  simp only [fBri, BitVec.extractLsb'_toNat, hdrWord_toNat, Nat.shiftRight_eq_div_pow]
  omega

@[simp] theorem fSri_hdrWord : fSri (hdrWord sync ver layer bri sri m) = sri := by
  apply BitVec.eq_of_toNat_eq
  have := fields_lt sync ver layer bri sri m
  simp only [fSri, BitVec.extractLsb'_toNat, hdrWord_toNat, Nat.shiftRight_eq_div_pow]
  omega

@[simp] theorem fPad_hdrWord : fPad (hdrWord sync ver layer bri sri m) = m.pad := by
  apply BitVec.eq_of_toNat_eq
  have := fields_lt sync ver layer bri sri m
  simp only [fPad, BitVec.extractLsb'_toNat, hdrWord_toNat, Nat.shiftRight_eq_div_pow]
  omega

@[simp] theorem fPriv_hdrWord : fPriv (hdrWord sync ver layer bri sri m) = m.priv := by
  apply BitVec.eq_of_toNat_eq
  have := fields_lt sync ver layer bri sri m
  simp only [fPriv, BitVec.extractLsb'_toNat, hdrWord_toNat, Nat.shiftRight_eq_div_pow]
  omega

@[simp] theorem fMode_hdrWord : fMode (hdrWord sync ver layer bri sri m) = m.mode := by
  apply BitVec.eq_of_toNat_eq
  have := fields_lt sync ver layer bri sri m
  simp only [fMode, BitVec.extractLsb'_toNat, hdrWord_toNat, Nat.shiftRight_eq_div_pow]
  omega

@[simp] theorem fMext_hdrWord : fMext (hdrWord sync ver layer bri sri m) = m.mext := by
  apply BitVec.eq_of_toNat_eq
  have := fields_lt sync ver layer bri sri m
  simp only [fMext, BitVec.extractLsb'_toNat, hdrWord_toNat, Nat.shiftRight_eq_div_pow]
  omega

@[simp] theorem fCopy_hdrWord : fCopy (hdrWord sync ver layer bri sri m) = m.copy := by
  apply BitVec.eq_of_toNat_eq
  have := fields_lt sync ver layer bri sri m
  simp only [fCopy, BitVec.extractLsb'_toNat, hdrWord_toNat, Nat.shiftRight_eq_div_pow]
  omega

@[simp] theorem fOrig_hdrWord : fOrig (hdrWord sync ver layer bri sri m) = m.orig := by
  apply BitVec.eq_of_toNat_eq
  have := fields_lt sync ver layer bri sri m
  simp only [fOrig, BitVec.extractLsb'_toNat, hdrWord_toNat, Nat.shiftRight_eq_div_pow]
  omega

@[simp] theorem fEmph_hdrWord : fEmph (hdrWord sync ver layer bri sri m) = m.emph := by
  apply BitVec.eq_of_toNat_eq
  have := fields_lt sync ver layer bri sri m
  simp only [fEmph, BitVec.extractLsb'_toNat, hdrWord_toNat, Nat.shiftRight_eq_div_pow]
  omega

@[simp] theorem fRest_hdrWord : fRest (hdrWord sync ver layer bri sri m) = m := by
  simp [fRest]

end Fields

/-- Two neighbouring fields join into one. -/
theorem extract_append (w : Word) {start mid a b : Nat} (h : mid = start + b) :
    w.extractLsb' mid a ++ w.extractLsb' start b = w.extractLsb' start (a + b) := by
  subst h
  exact BitVec.extractLsb'_append_extractLsb'_eq_extractLsb' rfl

/-- The fields cover all 32 bits once each (30_encoding.md R71). -/
@[simp] theorem hdrWord_fields (w : Word) :
    hdrWord (fSync w) (fVer w) (fLayer w) (fBri w) (fSri w) (fRest w) = w := by
  simp only [hdrWord, fSync, fVer, fLayer, fProt, fBri, fSri, fPad, fPriv, fMode, fMext, fCopy, fOrig, fEmph, fRest]
  repeat rw [extract_append w (by rfl)]
  exact BitVec.extractLsb'_eq_self

@[simp] theorem versionOf_versionCode (v : Version) : versionOf (versionCode v) = v := by
  cases v <;> rfl

@[simp] theorem versionCode_versionOf (c : BitVec 2) : versionCode (versionOf c) = c := by
  revert c; decide

@[simp] theorem layerOf_layerCode (l : Layer) : layerOf (layerCode l) = some l := by
  cases l <;> rfl

theorem layerCode_of_layerOf {c : BitVec 2} {l : Layer} (h : layerOf c = some l) : layerCode l = c := by
  revert c l; decide

theorem layerOf_eq_none {c : BitVec 2} : layerOf c = none ↔ c = 0b00 := by
  revert c; decide

/-- The stream bytes of a word, packed again, are the word (20_memory.md R52). -/
theorem packWord_bytes (w : Word) :
    packWord (w.extractLsb' 24 8) (w.extractLsb' 16 8) (w.extractLsb' 8 8) (w.extractLsb' 0 8) = w := by
  simp only [packWord]
  repeat rw [extract_append w (by rfl)]
  exact BitVec.extractLsb'_eq_self

end Sys2Proof
end

