-- ==== Sys2Proof/Laws/State.lean ====
section
/-! SUPPORT. What each update of the state leaves in each field. -/

namespace Sys2Proof.Machine

@[simp] theorem drawAll_regs (s : State) : (drawAll s).regs = powerUpRegs s.draws := rfl
@[simp] theorem drawAll_feed (s : State) : (drawAll s).feed = s.feed.tail := rfl
@[simp] theorem drawAll_host (s : State) : (drawAll s).host = s.host := rfl
@[simp] theorem drawAll_draws (s : State) : (drawAll s).draws = s.draws + 1 := rfl
@[simp] theorem drawAll_resetDone (s : State) : (drawAll s).resetDone = s.resetDone := rfl

/-- After the first RESET an edge writes the registers it is given. -/
theorem clock_of_reset (r : Regs) {s : State} (h : s.resetDone = true) :
    clock r s = { s with regs := r, feed := s.feed.tail } := if_pos h

/-- Before the first RESET an edge draws them, whatever it is given (70_reset_and_hazards.md R242). -/
theorem clock_of_unreset (r : Regs) {s : State} (h : s.resetDone = false) : clock r s = drawAll s :=
  if_neg (by simp [h])

@[simp] theorem clock_feed (r : Regs) (s : State) : (clock r s).feed = s.feed.tail := by unfold clock; split <;> rfl
@[simp] theorem clock_host (r : Regs) (s : State) : (clock r s).host = s.host := by unfold clock; split <;> rfl
@[simp] theorem clock_resetDone (r : Regs) (s : State) : (clock r s).resetDone = s.resetDone := by
  unfold clock; split <;> rfl
@[simp] theorem clock_regs (r : Regs) {s : State} (h : s.resetDone = true) : (clock r s).regs = r := by
  rw [clock_of_reset r h]
@[simp] theorem clock_draws (r : Regs) {s : State} (h : s.resetDone = true) : (clock r s).draws = s.draws := by
  rw [clock_of_reset r h]

@[simp] theorem resetEdge_regs (s : State) : (resetEdge s).regs = Regs.zero := rfl
@[simp] theorem resetEdge_feed (s : State) : (resetEdge s).feed = s.feed.tail := rfl
@[simp] theorem resetEdge_host (s : State) : (resetEdge s).host = s.host := rfl
@[simp] theorem resetEdge_draws (s : State) : (resetEdge s).draws = s.draws := rfl
@[simp] theorem resetEdge_resetDone (s : State) : (resetEdge s).resetDone = true := rfl

@[simp] theorem withPorts_regs (s : State) (p : Ports) : (withPorts s p).regs = s.regs := rfl
@[simp] theorem withPorts_feed (s : State) (p : Ports) : (withPorts s p).feed = .edge p :: s.feed.tail := rfl
@[simp] theorem withPorts_host (s : State) (p : Ports) : (withPorts s p).host = s.host := rfl
@[simp] theorem withPorts_draws (s : State) (p : Ports) : (withPorts s p).draws = s.draws := rfl
@[simp] theorem withPorts_resetDone (s : State) (p : Ports) : (withPorts s p).resetDone = s.resetDone := rfl

@[simp] theorem powerUp_regs (s : State) : (powerUp s).regs = powerUpRegs s.draws := rfl
@[simp] theorem powerUp_feed (s : State) : (powerUp s).feed = s.feed.tail := rfl
@[simp] theorem powerUp_host (s : State) : (powerUp s).host = s.host := rfl
@[simp] theorem powerUp_draws (s : State) : (powerUp s).draws = s.draws + 1 := rfl
@[simp] theorem powerUp_resetDone (s : State) : (powerUp s).resetDone = false := rfl

@[simp] theorem present_regs (w : Word) (s : State) : (present w s).regs = s.regs := rfl
@[simp] theorem present_feed (w : Word) (s : State) : (present w s).feed = .edge (wordPorts w) :: s.feed := rfl
@[simp] theorem present_host (w : Word) (s : State) : (present w s).host = s.host := rfl
@[simp] theorem present_draws (w : Word) (s : State) : (present w s).draws = s.draws := rfl
@[simp] theorem present_resetDone (w : Word) (s : State) : (present w s).resetDone = s.resetDone := rfl

@[simp] theorem exhaust_regs (s : State) : (exhaust s).regs = s.regs := rfl
@[simp] theorem exhaust_feed (s : State) : (exhaust s).feed = s.feed := rfl
@[simp] theorem exhaust_pos (s : State) : (exhaust s).host.pos = s.host.pos := rfl
@[simp] theorem exhaust_src (s : State) : (exhaust s).host.src = s.host.src := rfl
@[simp] theorem exhaust_mode (s : State) : (exhaust s).host.mode = .exhausted := rfl
@[simp] theorem exhaust_draws (s : State) : (exhaust s).draws = s.draws := rfl
@[simp] theorem exhaust_resetDone (s : State) : (exhaust s).resetDone = s.resetDone := rfl

@[simp] theorem idleRegs_outValid (r : Regs) : (idleRegs r).outValid = 0 := rfl

/-- Lowering `out_valid` does nothing to the reset zeros. -/
@[simp] theorem idleRegs_zero : idleRegs Regs.zero = Regs.zero := rfl

end Sys2Proof.Machine
end

