-- ==== Sys2Proof/Laws/Ops.lean ====
section
/-! SUPPORT. Once for each shared operation, everything it can do. -/

namespace Sys2Proof.Machine

/-! ### Input -/

@[simp] theorem nextEvent_nil {s : State} (h : s.feed = []) : nextEvent s = .edge idlePorts := by
  simp [nextEvent, h]

@[simp] theorem nextEvent_cons {s : State} {e : Event} {es : List Event} (h : s.feed = e :: es) : nextEvent s = e := by
  simp [nextEvent, h]

/-- Whatever comes next was listed, or is the edge of a host with no word. -/
theorem nextEvent_mem (s : State) : nextEvent s = .edge idlePorts ∨ nextEvent s ∈ s.feed := by
  rcases h : s.feed with _ | ⟨e, es⟩
  · exact .inl (nextEvent_nil h)
  · exact .inr (by rw [nextEvent_cons h]; exact List.mem_cons_self)

@[simp] theorem sampled_wordPorts (w : Word) : sampled (wordPorts w) = .decode w := by
  simp [sampled, wordPorts, decodeCycle]

@[simp] theorem sampled_idlePorts : sampled idlePorts = .idle := rfl

/-! ### Codes -/

/-- A kind's code is 1 to 4 (60_exceptions.md R200), and reads back as the kind. -/
theorem errCode_spec (e : HeaderError) : 1 ≤ (errCode e).toNat ∧ (errCode e).toNat ≤ 4 ∧ errKind (errCode e) = some e := by
  cases e <;> decide

theorem errCode_ne_zero (e : HeaderError) : errCode e ≠ 0 := by
  cases e <;> decide

/-! ### Tables -/

/-- At an index from 1 to 14 a bitrate table gives the cell the rule lists (42_lut.md R161 to R166). -/
theorem brLut_cell (t : BrTable) (i : BitVec 4) (h0 : i ≠ 0) (h15 : i ≠ 15) :
    (brCells t)[i.toNat - 1]? = some (brLut t i) := by
  revert i; cases t <;> decide

/-- At an index from 0 to 2 a sample-rate table gives the cell the rule lists (42_lut.md R168 to R170). -/
theorem srLut_cell (t : SrTable) (i : BitVec 2) (h3 : i ≠ 3) : (srCells t)[i.toNat]? = some (srLut t i) := by
  revert i; cases t <;> decide

/-! ### The record H -/

@[simp] theorem headerOf_layer (v : Version) (l : Layer) (b : Bitrate) (hz : Half) (m : HdrRest) :
    (headerOf v l b hz m).layer = l := by
  cases l <;> rfl

@[simp] theorem headerOf_bitrate (v : Version) (l : Layer) (b : Bitrate) (hz : Half) (m : HdrRest) :
    (headerOf v l b hz m).bitrate = b := rfl

@[simp] theorem headerOf_samplingRate (v : Version) (l : Layer) (b : Bitrate) (hz : Half) (m : HdrRest) :
    (headerOf v l b hz m).samplingRate = hz := rfl

@[simp] theorem headerOf_padding (v : Version) (l : Layer) (b : Bitrate) (hz : Half) (m : HdrRest) :
    (headerOf v l b hz m).padding = m.pad := rfl

@[simp] theorem headerOf_version (v : Version) (l : Layer) (b : Bitrate) (hz : Half) (m : HdrRest) :
    (headerOf v l b hz m).version = v := rfl

/-- The mode extension of H, by layer (41_header_decode.md R134, R135). -/
theorem headerOf_modeExtension (v : Version) (l : Layer) (b : Bitrate) (hz : Half) (m : HdrRest) :
    (headerOf v l b hz m).modeExtension =
      if l = .layerIII then .stereo (intensityOf m.mext) (msOf m.mext) else .bands (bandsOf m.mext) := by
  cases l <;> rfl

theorem srSel_eq_none {v : Version} : srSel v = none ↔ v = .reserved := by
  cases v <;> simp [srSel]

/-! ### decode(W) -/

/-- The two halves of step 1 are one condition on the sync field (30_encoding.md R74, 41_header_decode.md R122). -/
theorem syncBad_iff (w : Word) : syncBad w = true ↔ fSync w ≠ 0x7FF := by
  have h : fSync w = w.extractLsb' 24 8 ++ w.extractLsb' 21 3 :=
    (extract_append w (start := 21) (mid := 24) (a := 8) (b := 3) rfl).symm
  have split : ∀ (x : BitVec 8) (y : BitVec 3), x ++ y = 0x7FF#11 ↔ x = 0xFF ∧ y = 0b111 := by decide
  rw [h, ne_eq, show (_ = (0x7FF : BitVec 11)) ↔ _ from split _ _]
  simp only [syncBad, Bool.or_eq_true, bne_iff_ne, ne_eq, not_and_or]

/-- Everything decode(W) can answer (41_header_decode.md R120, R121): one case per way to fail, and success. -/
theorem decodeWord_cases (w : Word) :
    (fSync w ≠ 0x7FF ∧ decodeWord w = .fail .badSync) ∨
    (fSync w = 0x7FF ∧ layerOf (fLayer w) = none ∧ decodeWord w = .fail .badLayer) ∨
    (∃ l, fSync w = 0x7FF ∧ layerOf (fLayer w) = some l ∧ fBri w = 15 ∧ decodeWord w = .fail .badBitrate) ∨
    (∃ l, fSync w = 0x7FF ∧ layerOf (fLayer w) = some l ∧ fBri w ≠ 15 ∧
      (versionOf (fVer w) = .reserved ∨ fSri w = 3) ∧ decodeWord w = .fail .badSamplingRate) ∨
    (∃ l t, fSync w = 0x7FF ∧ layerOf (fLayer w) = some l ∧ fBri w ≠ 15 ∧ srSel (versionOf (fVer w)) = some t ∧
      versionOf (fVer w) ≠ .reserved ∧ fSri w ≠ 3 ∧
      decodeWord w = .ok (headerOf (versionOf (fVer w)) l (bitrateOf (versionOf (fVer w)) l (fBri w))
        (srLut t (fSri w)) (fRest w))) := by
  by_cases hs : fSync w = 0x7FF
  · have hb : ¬ syncBad w = true := fun h => (syncBad_iff w).1 h hs
    right
    unfold decodeWord
    rw [if_neg hb]
    rcases hl : layerOf (fLayer w) with _ | l
    · exact .inl ⟨hs, rfl, rfl⟩
    · right
      by_cases h15 : fBri w = 15
      · exact .inl ⟨l, hs, rfl, h15, if_pos h15⟩
      · right
        simp only [if_neg h15]
        rcases hv : srSel (versionOf (fVer w)) with _ | t
        · exact .inl ⟨l, hs, rfl, h15, .inl (srSel_eq_none.1 hv), rfl⟩
        · have hr : versionOf (fVer w) ≠ .reserved := fun h => by simp [h, srSel] at hv
          by_cases h3 : fSri w = 3
          · exact .inl ⟨l, hs, rfl, h15, .inr h3, if_pos h3⟩
          · exact .inr ⟨l, t, hs, rfl, h15, rfl, hr, h3, if_neg h3⟩
  · exact .inl ⟨hs, if_pos ((syncBad_iff w).2 hs)⟩

/-! ### The byte source -/

/-- Everything SrcRead(n) can do (60_exceptions.md R221). -/
theorem srcRead_cases (n : Nat) (h : Scanner) :
    (n ≤ h.src.bytes.length ∧ srcRead n h = (.full (h.src.bytes.take n),
      { h with pos := h.pos + n, src := { h.src with bytes := h.src.bytes.drop n } })) ∨
    (h.src.bytes.length < n ∧ ∃ e, h.src.ending = .ioErr e ∧ srcRead n h = (.ioErr e, h)) ∨
    (h.src.bytes.length < n ∧ h.src.ending = .eos ∧ h.src.bytes = [] ∧ srcRead n h = (.eos, h)) ∨
    (h.src.bytes.length < n ∧ h.src.ending = .eos ∧ h.src.bytes ≠ [] ∧ srcRead n h = (.short h.src.bytes.length,
      { h with pos := h.pos + h.src.bytes.length, src := { h.src with bytes := [] } })) := by
  by_cases hn : n ≤ h.src.bytes.length
  · exact .inl ⟨hn, by simp [srcRead, hn]⟩
  · have hlt := Nat.lt_of_not_le hn
    rcases he : h.src.ending with _ | e
    · by_cases hb : h.src.bytes = []
      · exact .inr (.inr (.inl ⟨hlt, rfl, hb, by rw [srcRead, if_neg hn, he]; exact if_pos hb⟩))
      · exact .inr (.inr (.inr ⟨hlt, rfl, hb, by simp [srcRead, hn, he, hb]⟩))
    · exact .inr (.inl ⟨hlt, e, rfl, by simp [srcRead, hn, he]⟩)

/-- Presenting a word and stepping is the edge of a DECODE of it. -/
theorem performDecode_clock (w : Word) (s : State) :
    performDecode w s = .next (clock (resultRegs w (decodeWord w)) (present w s)) := by
  simp [performDecode, step, present, nextEvent, exec, execDecode]

/-- After the first RESET the host's DECODE leaves the decode's registers, and what was listed stays listed. -/
theorem performDecode_eq (w : Word) {s : State} (h : s.resetDone = true) :
    performDecode w s = .next { s with regs := resultRegs w (decodeWord w) } := by
  rw [performDecode_clock, clock_of_reset (s := present w s) _ h]; rfl

/-- A code that an error kind has is read back as that kind (60_exceptions.md R200, R223). -/
@[simp] theorem kindOf_errCode (e : HeaderError) : kindOf (errCode e) = e := by
  simp [kindOf, (errCode_spec e).2.2]

end Sys2Proof.Machine
end

