-- ==== Sys2Proof/Laws/Exec.lean ====
section
/-! SUPPORT. What an instruction and a step can do. -/

namespace Sys2Proof.Machine

/-- Everything an instruction can do: RESET is a reset edge, every other instruction is one edge that writes some registers. -/
theorem exec_cases (i : Instr) (s : State) :
    (i = .reset ∧ exec i s = .next (resetEdge s)) ∨ (i ≠ .reset ∧ ∃ r, exec i s = .next (clock r s)) := by
  cases i with
  | reset => exact .inl ⟨rfl, rfl⟩
  | hdrFreefmt ver layer sri m => cases ver <;> exact .inr ⟨Instr.noConfusion, _, rfl⟩
  | _ => exact .inr ⟨Instr.noConfusion, _, rfl⟩

/-- Everything a step can do. -/
theorem step_cases (s : State) :
    (∃ p, nextEvent s = .edge p ∧ step s = exec (sampled p) s) ∨
    (nextEvent s = .powerCycle ∧ step s = .next (powerUp s)) ∨
    (nextEvent s = .unstable ∧ step s = .refused .unstableInputs) ∨
    (nextEvent s = .contended ∧ step s = .refused .twoHosts) ∨
    (nextEvent s = .clockStopped ∧ step s = .fault .clockStopped) := by
  rcases h : nextEvent s with p | _ | _ | _ | _ <;> simp [step, h]

/-- The three operations the ports can select (40_interface_ops.md R100). -/
theorem sampled_cases (p : Ports) :
    (p.rst = 1 ∧ sampled p = .reset) ∨ (p.rst = 0 ∧ p.inValid = 1 ∧ sampled p = .decode p.inHdr) ∨
    (p.rst = 0 ∧ p.inValid = 0 ∧ sampled p = .idle) := by
  have bit : ∀ b : Bit, b = 0 ∨ b = 1 := by decide
  rcases bit p.rst with hr | hr <;> rcases bit p.inValid with hv | hv <;> simp [sampled, decodeCycle, hr, hv]

end Sys2Proof.Machine
end

