-- ==== Sys2Proof/Laws/PerInstr.lean ====
section
/-! SUPPORT. The per-instruction family FitsRow: the encoding of an instruction has the mask and match of its row of
spec/opcode_table.json. -/

namespace Sys2Proof.Laws

/-- A row's test, its numbers as the table has them. -/
inductive Row where
  | cmd (mask value : BitVec 2)
  | hdr (mask value : Word)
  | hdrNot (mask value : Word)

/-- An encoded operation passes a row's test. -/
def Row.fits : Row → Encoded → Prop
  | .cmd mask value, .cmd vector _ => vector &&& mask = value
  | .hdr mask value, .hdr32 w => w &&& mask = value
  | .hdrNot mask value, .hdr32 w => w &&& mask ≠ value
  | _, _ => False

/-- The row of each constructor. -/
def rowOf : Instr → Row
  | .reset => .cmd 0b10 0b10
  | .decode _ => .cmd 0b11 0b01
  | .idle => .cmd 0b11 0b00
  | .hdrBadsync _ _ _ _ _ _ => .hdrNot 0xFFE00000 0xFFE00000
  | .hdrBadlayer _ _ _ _ => .hdr 0xFFE60000 0xFFE00000
  | .hdrBadbitrate _ _ _ _ => .hdr 0xFFE0F000 0xFFE0F000
  | .hdrBadsrResver _ _ _ _ => .hdr 0xFFF80000 0xFFE80000
  | .hdrBadsrIdx3 _ _ _ _ => .hdr 0xFFE00C00 0xFFE00C00
  | .hdrFreefmt _ _ _ _ => .hdr 0xFFE0F000 0xFFE00000
  | .hdrM1L1 _ _ _ => .hdr 0xFFFE0000 0xFFFE0000
  | .hdrM1L2 _ _ _ => .hdr 0xFFFE0000 0xFFFC0000
  | .hdrM1L3 _ _ _ => .hdr 0xFFFE0000 0xFFFA0000
  | .hdrM2L1 _ _ _ => .hdr 0xFFFE0000 0xFFF60000
  | .hdrM2L2 _ _ _ => .hdr 0xFFFE0000 0xFFF40000
  | .hdrM2L3 _ _ _ => .hdr 0xFFFE0000 0xFFF20000
  | .hdrM25L1 _ _ _ => .hdr 0xFFFE0000 0xFFE60000
  | .hdrM25L2 _ _ _ => .hdr 0xFFFE0000 0xFFE40000
  | .hdrM25L3 _ _ _ => .hdr 0xFFFE0000 0xFFE20000

/-- The bitwise and of the remaining fields. -/
def restAnd (a b : HdrRest) : HdrRest :=
  { prot := a.prot &&& b.prot, pad := a.pad &&& b.pad, priv := a.priv &&& b.priv, mode := a.mode &&& b.mode,
    mext := a.mext &&& b.mext, copy := a.copy &&& b.copy, orig := a.orig &&& b.orig, emph := a.emph &&& b.emph }

/-- The remaining fields all 0. -/
def restZero : HdrRest := { prot := 0, pad := 0, priv := 0, mode := 0, mext := 0, copy := 0, orig := 0, emph := 0 }

/-- Masking a word masks each field. -/
theorem hdrWord_and (s s' : BitVec 11) (v v' l l' : BitVec 2) (b b' : BitVec 4) (r r' : BitVec 2) (m m' : HdrRest) :
    hdrWord s v l b r m &&& hdrWord s' v' l' b' r' m' =
      hdrWord (s &&& s') (v &&& v') (l &&& l') (b &&& b') (r &&& r') (restAnd m m') := by
  refine BitVec.and_append.trans ?_
  simp only [BitVec.and_append, hdrWord, restAnd]

/-- A word whose masked fields are those of the match passes the test of a mask with no bit in the remaining fields. -/
theorem masked {s s' : BitVec 11} {v v' l l' : BitVec 2} {b b' : BitVec 4} {r r' : BitVec 2} {m : HdrRest} {mask value : Word}
    (hm : mask = hdrWord s' v' l' b' r' restZero)
    (hv : value = hdrWord (s &&& s') (v &&& v') (l &&& l') (b &&& b') (r &&& r') restZero) :
    hdrWord s v l b r m &&& mask = value := by
  have h0 : restAnd m restZero = restZero := by simp [restAnd, restZero]
  rw [hm, hv, hdrWord_and, h0]

/-- A well-formed instruction's encoding passes its row's test. -/
def FitsRow.Statement (i : Instr) : Prop := WellFormed i → (rowOf i).fits (encode i)

theorem FitsRow.reset : FitsRow.Statement .reset := by
  intro _
  simp [rowOf, encode, Row.fits]

theorem FitsRow.decode (w : Word) : FitsRow.Statement (.decode w) := by
  intro _
  simp [rowOf, encode, Row.fits]

theorem FitsRow.idle : FitsRow.Statement .idle := by
  intro _
  simp [rowOf, encode, Row.fits]

theorem FitsRow.hdrBadsync (sync : BitVec 11) (ver layer : BitVec 2) (bri : BitVec 4) (sri : BitVec 2) (m : HdrRest) :
    FitsRow.Statement (.hdrBadsync sync ver layer bri sri m) := by
  intro h hs
  have h : sync ≠ 0x7FF := by simpa [WellFormed, wellFormed] using h
  have hm : (0xFFE00000 : Word) = hdrWord 0x7FF 0 0 0 0 restZero := by decide
  rw [hm, hdrWord_and] at hs
  have := congrArg fSync hs
  simp only [fSync_hdrWord] at this
  have all : ∀ x : BitVec 11, x &&& 0x7FF = x := by decide
  exact h ((all sync).symm.trans this)

theorem FitsRow.hdrBadlayer (ver : Version) (bri : BitVec 4) (sri : BitVec 2) (m : HdrRest) :
    FitsRow.Statement (.hdrBadlayer ver bri sri m) := by
  intro _
  exact masked (s' := 0x7FF) (v' := 0) (l' := 3) (b' := 0) (r' := 0) (by decide) (by simp; decide)

theorem FitsRow.hdrBadbitrate (ver : Version) (layer : Layer) (sri : BitVec 2) (m : HdrRest) :
    FitsRow.Statement (.hdrBadbitrate ver layer sri m) := by
  intro _
  exact masked (s' := 0x7FF) (v' := 0) (l' := 0) (b' := 15) (r' := 0) (by decide) (by simp; decide)

theorem FitsRow.hdrBadsrResver (layer : Layer) (bri : BitVec 4) (sri : BitVec 2) (m : HdrRest) :
    FitsRow.Statement (.hdrBadsrResver layer bri sri m) := by
  intro _
  exact masked (s' := 0x7FF) (v' := 3) (l' := 0) (b' := 0) (r' := 0) (by decide) (by simp; decide)

theorem FitsRow.hdrBadsrIdx3 (ver : Version) (layer : Layer) (bri : BitVec 4) (m : HdrRest) :
    FitsRow.Statement (.hdrBadsrIdx3 ver layer bri m) := by
  intro _
  exact masked (s' := 0x7FF) (v' := 0) (l' := 0) (b' := 0) (r' := 3) (by decide) (by simp; decide)

theorem FitsRow.hdrFreefmt (ver : Version) (layer : Layer) (sri : BitVec 2) (m : HdrRest) :
    FitsRow.Statement (.hdrFreefmt ver layer sri m) := by
  intro _
  exact masked (s' := 0x7FF) (v' := 0) (l' := 0) (b' := 15) (r' := 0) (by decide) (by simp; decide)

theorem FitsRow.hdrM1L1 (bri : BitVec 4) (sri : BitVec 2) (m : HdrRest) :
    FitsRow.Statement (.hdrM1L1 bri sri m) := by
  intro _
  exact masked (s' := 0x7FF) (v' := 3) (l' := 3) (b' := 0) (r' := 0) (by decide) (by simp; decide)

theorem FitsRow.hdrM1L2 (bri : BitVec 4) (sri : BitVec 2) (m : HdrRest) :
    FitsRow.Statement (.hdrM1L2 bri sri m) := by
  intro _
  exact masked (s' := 0x7FF) (v' := 3) (l' := 3) (b' := 0) (r' := 0) (by decide) (by simp; decide)

theorem FitsRow.hdrM1L3 (bri : BitVec 4) (sri : BitVec 2) (m : HdrRest) :
    FitsRow.Statement (.hdrM1L3 bri sri m) := by
  intro _
  exact masked (s' := 0x7FF) (v' := 3) (l' := 3) (b' := 0) (r' := 0) (by decide) (by simp; decide)

theorem FitsRow.hdrM2L1 (bri : BitVec 4) (sri : BitVec 2) (m : HdrRest) :
    FitsRow.Statement (.hdrM2L1 bri sri m) := by
  intro _
  exact masked (s' := 0x7FF) (v' := 3) (l' := 3) (b' := 0) (r' := 0) (by decide) (by simp; decide)

theorem FitsRow.hdrM2L2 (bri : BitVec 4) (sri : BitVec 2) (m : HdrRest) :
    FitsRow.Statement (.hdrM2L2 bri sri m) := by
  intro _
  exact masked (s' := 0x7FF) (v' := 3) (l' := 3) (b' := 0) (r' := 0) (by decide) (by simp; decide)

theorem FitsRow.hdrM2L3 (bri : BitVec 4) (sri : BitVec 2) (m : HdrRest) :
    FitsRow.Statement (.hdrM2L3 bri sri m) := by
  intro _
  exact masked (s' := 0x7FF) (v' := 3) (l' := 3) (b' := 0) (r' := 0) (by decide) (by simp; decide)

theorem FitsRow.hdrM25L1 (bri : BitVec 4) (sri : BitVec 2) (m : HdrRest) :
    FitsRow.Statement (.hdrM25L1 bri sri m) := by
  intro _
  exact masked (s' := 0x7FF) (v' := 3) (l' := 3) (b' := 0) (r' := 0) (by decide) (by simp; decide)

theorem FitsRow.hdrM25L2 (bri : BitVec 4) (sri : BitVec 2) (m : HdrRest) :
    FitsRow.Statement (.hdrM25L2 bri sri m) := by
  intro _
  exact masked (s' := 0x7FF) (v' := 3) (l' := 3) (b' := 0) (r' := 0) (by decide) (by simp; decide)

theorem FitsRow.hdrM25L3 (bri : BitVec 4) (sri : BitVec 2) (m : HdrRest) :
    FitsRow.Statement (.hdrM25L3 bri sri m) := by
  intro _
  exact masked (s' := 0x7FF) (v' := 3) (l' := 3) (b' := 0) (r' := 0) (by decide) (by simp; decide)

end Sys2Proof.Laws
end

