-- ==== Sys2Proof/Tests/Slice0.lean ====
section
/-! SUPPORT. Tests: the smoke test of WellFormed, words written out from the spec's encoding, single steps with the results of
95_test_vectors.md, and for each statement with hypotheses a case that meets them. -/

namespace Sys2Proof.Tests

open Sys2Proof.Machine Sys2Proof.Claims

/-! ### Helpers -/

/-- Only PROT set: the remaining fields of most vectors (byte1 ends in 1, byte3 is 00). -/
def rest1 : HdrRest := { prot := 1, pad := 0, priv := 0, mode := 0, mext := 0, copy := 0, orig := 0, emph := 0 }

/-- The same with PAD set. -/
def rest1pad : HdrRest := { rest1 with pad := 1 }

/-- The reset state with these events to come. -/
def fed (es : List Event) : State := { State.reset with feed := es }

/-- The same with power applied and no RESET done. -/
def unreset (es : List Event) : State := { fed es with resetDone := false }

/-- The event of a DECODE cycle. -/
def dec (w : Word) : Event := .edge (wordPorts w)

/-- The state of an outcome that goes on. -/
def nextOf : Host.Outcome State Fault Refusal → Option State
  | .next s => some s
  | .fault _ => none
  | .refused _ => none

/-- The registers of an outcome that goes on. -/
def regsOf (o : Host.Outcome State Fault Refusal) : Option Regs := (nextOf o).map (·.regs)

/-- out_err, out_kbps, out_hz, out_flen, out_plen, out_free, out_lvalid. -/
def sums (o : Host.Outcome State Fault Refusal) : Option (List Nat) :=
  (regsOf o).map fun r => [r.outErr.toNat, r.outKbps.toNat, r.outHz.toNat, r.outFlen.toNat, r.outPlen.toNat, r.outFree.toNat,
    r.outLvalid.toNat]

/-- The host with a byte source over the reset machine. -/
def source (bytes : List Byte) (ending : SourceEnd) : State :=
  { State.reset with host := { mode := .scanning, pos := 0, src := { bytes := bytes, ending := ending } } }

/-- An answer, the position and the host's state after a call. -/
def called : Host.Outcome (State × Answer) Fault Refusal → Option (Answer × Nat × ScanMode)
  | .next (s, a) => some (a, s.host.pos, s.host.mode)
  | .fault _ => none
  | .refused _ => none

/-! ### WellFormed: a term each check refuses -/

theorem test_illformed_badsync : ¬ WellFormed (.hdrBadsync 0x7FF 3 1 9 0 rest1) := by decide
theorem test_illformed_resver : ¬ WellFormed (.hdrBadsrResver .layerIII 15 0 rest1) := by decide
theorem test_illformed_idx3_version : ¬ WellFormed (.hdrBadsrIdx3 .reserved .layerIII 9 rest1) := by decide
theorem test_illformed_idx3_bitrate : ¬ WellFormed (.hdrBadsrIdx3 .mpeg1 .layerIII 15 rest1) := by decide
theorem test_illformed_freefmt_version : ¬ WellFormed (.hdrFreefmt .reserved .layerIII 0 rest1) := by decide
theorem test_illformed_freefmt_rate : ¬ WellFormed (.hdrFreefmt .mpeg1 .layerIII 3 rest1) := by decide
theorem test_illformed_indexed_free : ¬ WellFormed (.hdrM1L3 0 0 rest1) := by decide
theorem test_illformed_indexed_bitrate : ¬ WellFormed (.hdrM2L1 15 0 rest1) := by decide
theorem test_illformed_indexed_rate : ¬ WellFormed (.hdrM25L2 9 3 rest1) := by decide

/-! ### Decoding: words written out from 30_encoding.md R71, `11111111 111vvllp bbbbssdr mmxxcoee` -/

theorem test_decode_reset : decodeTableWord 8 0b10 = some .reset := by decide
theorem test_decode_reset_with_valid : decodeTableWord 8 0b11 = some .reset := by decide
theorem test_decode_decode : decodeTableWord 8 0b01 = some (.decode 0) := by decide
theorem test_decode_decode_operand : decodeBytes .cmd [0x01, 0xFF, 0xFB, 0x90, 0x00] = .ok (.decode 0xFFFB9000, []) := by
  decide
theorem test_decode_idle : decodeTableWord 8 0b00 = some .idle := by decide
theorem test_decode_bad_command : decodeBytes .cmd [0x04, 0, 0, 0, 0] = .error .badCommand := by decide
theorem test_decode_badsync :
    decodeHeader 0b11111111110_11_01_1_1001_00_0_0_00_00_0_0_00 = .hdrBadsync 0x7FE 3 1 9 0 rest1 := by decide
theorem test_decode_badlayer :
    decodeHeader 0b11111111111_01_00_1_1111_11_0_0_00_00_0_0_00 = .hdrBadlayer .reserved 15 3 rest1 := by decide
theorem test_decode_badbitrate :
    decodeHeader 0b11111111111_01_01_1_1111_11_0_0_00_00_0_0_00 = .hdrBadbitrate .reserved .layerIII 3 rest1 := by decide
theorem test_decode_resver :
    decodeHeader 0b11111111111_01_10_1_1001_11_0_0_00_00_0_0_00 = .hdrBadsrResver .layerII 9 3 rest1 := by decide
theorem test_decode_idx3 :
    decodeHeader 0b11111111111_11_11_1_0000_11_0_0_00_00_0_0_00 = .hdrBadsrIdx3 .mpeg1 .layerI 0 rest1 := by decide
theorem test_decode_freefmt :
    decodeHeader 0b11111111111_00_01_1_0000_10_1_0_00_00_0_0_00 = .hdrFreefmt .mpeg25 .layerIII 2 rest1pad := by decide
theorem test_decode_m1l1 : decodeHeader 0b11111111111_11_11_1_0001_01_0_0_00_00_0_0_00 = .hdrM1L1 1 1 rest1 := by decide
theorem test_decode_m1l2 : decodeHeader 0b11111111111_11_10_1_1110_10_0_0_00_00_0_0_00 = .hdrM1L2 14 2 rest1 := by decide
theorem test_decode_m1l3 : decodeHeader 0b11111111111_11_01_0_1110_10_1_1_11_10_1_0_01 =
    .hdrM1L3 14 2 { prot := 0, pad := 1, priv := 1, mode := 3, mext := 2, copy := 1, orig := 0, emph := 1 } := by decide
theorem test_decode_m2l1 : decodeHeader 0b11111111111_10_11_1_0001_00_0_0_00_00_0_0_00 = .hdrM2L1 1 0 rest1 := by decide
theorem test_decode_m2l2 : decodeHeader 0b11111111111_10_10_1_1001_00_0_0_00_00_0_0_00 = .hdrM2L2 9 0 rest1 := by decide
theorem test_decode_m2l3 : decodeHeader 0b11111111111_10_01_0_1000_00_0_1_11_11_1_1_11 =
    .hdrM2L3 8 0 { prot := 0, pad := 0, priv := 1, mode := 3, mext := 3, copy := 1, orig := 1, emph := 3 } := by decide
theorem test_decode_m25l1 : decodeHeader 0b11111111111_00_11_1_1110_10_1_0_00_00_0_0_00 = .hdrM25L1 14 2 rest1pad := by decide
theorem test_decode_m25l2 : decodeHeader 0b11111111111_00_10_1_1110_10_1_0_00_00_0_0_00 = .hdrM25L2 14 2 rest1pad := by decide
theorem test_decode_m25l3 : decodeHeader 0b11111111111_00_01_1_1001_01_0_0_00_00_0_0_00 = .hdrM25L3 9 1 rest1 := by decide

/-- 30_encoding.md R82: `HDR(3, 1, 1, 9, 0, 0, ...)` = 0xFFFB9000. -/
theorem test_encode_hdr : encode (.hdrM1L3 9 0 rest1) = .hdr32 0xFFFB9000 := by decide

/-- 95_test_vectors.md E1: the bytes FF FB 90 00, in stream order. -/
theorem test_bytes_e1 : decodeBytes .hdr32 [0xFF, 0xFB, 0x90, 0x00, 0x55] = .ok (.hdrM1L3 9 0 rest1, [0x55]) := by decide

/-! ### One step: 95_test_vectors.md sections 2.1 to 2.5 -/

/-- C5 and C6: RESET with in_valid = 1 and a word present. -/
theorem test_reset_beats_valid :
    regsOf (step { fed [.edge ⟨1, 1, 0xFFFB9000⟩] with regs := decoded 0xFFFB9000 }) = some Regs.zero := by decide

/-- R242 and P1's start state: before the first RESET a DECODE leaves draws, and so does an IDLE. -/
theorem test_unreset_draws : regsOf (step (unreset [dec 0xFFFB9000])) = some (powerUpRegs 0) ∧
    regsOf (step (unreset [])) = some (powerUpRegs 0) := ⟨rfl, rfl⟩

/-- P1's edge 0: the first RESET sets every register to 0, and from then on a DECODE writes its result. -/
theorem test_first_reset : (nextOf (step (unreset [.edge ⟨1, 0, 0⟩]))).map (fun s => (s.regs, s.resetDone)) =
    some (Regs.zero, true) := by decide

/-- C4: IDLE keeps the last result, whatever in_hdr carries. -/
theorem test_idle_keeps : regsOf (step { fed [.edge ⟨0, 0, 0xFEFB9000⟩] with regs := decoded 0xFFFB9000 }) =
    some { decoded 0xFFFB9000 with outValid := 0 } := by decide

/-- E1, S1: 417 bytes. -/
theorem test_decode_s1 : sums (step (fed [dec 0xFFFB9000])) = some [0, 128, 44100, 417, 413, 0, 1] := by decide

/-- E2, 90_conflicts.md C1: 96 bytes, not the source's 104. -/
theorem test_decode_e2 : sums (step (fed [dec 0xFFFB1400])) = some [0, 32, 48000, 96, 92, 0, 1] := by decide

/-- S2: BadSync; the word is in out_hdr. -/
theorem test_badsync : regsOf (exec (.hdrBadsync 0x7F7 3 1 9 0 rest1) State.reset) =
    some { Regs.zero with outValid := 1, outHdr := 0xFEFB9000, outErr := 1 } := by decide

/-- S9: BadLayer beats a bad bitrate, a Reserved version and a bad sampling index. -/
theorem test_badlayer : regsOf (exec (.hdrBadlayer .reserved 15 3 rest1) State.reset) =
    some { Regs.zero with outValid := 1, outHdr := 0xFFE9FC00, outErr := 2 } := by decide

/-- S11: BadBitrate beats a Reserved version and sampling index 3. -/
theorem test_badbitrate : regsOf (exec (.hdrBadbitrate .reserved .layerIII 3 rest1) State.reset) =
    some { Regs.zero with outValid := 1, outHdr := 0xFFEBFC00, outErr := 3 } := by decide

/-- S8. -/
theorem test_resver : regsOf (exec (.hdrBadsrResver .layerIII 9 0 rest1) State.reset) =
    some { Regs.zero with outValid := 1, outHdr := 0xFFEB9000, outErr := 4 } := by decide

/-- S15: free format with sampling index 3 is BadSamplingRate. -/
theorem test_idx3 : regsOf (exec (.hdrBadsrIdx3 .mpeg1 .layerIII 0 rest1) State.reset) =
    some { Regs.zero with outValid := 1, outHdr := 0xFFFB0C00, outErr := 4 } := by decide

/-- S14: free format. -/
theorem test_freefmt : sums (exec (.hdrFreefmt .mpeg1 .layerIII 0 rest1) State.reset) = some [0, 0, 44100, 0, 0, 1, 0] := by
  decide

/-- F1: the smallest frame. -/
theorem test_m1l1 : sums (exec (.hdrM1L1 1 1 rest1) State.reset) = some [0, 32, 48000, 32, 28, 0, 1] := by decide

/-- F5: padding adds 4 bytes in Layer I. -/
theorem test_m1l1_padding : sums (exec (.hdrM1L1 1 0 rest1pad) State.reset) = some [0, 32, 44100, 38, 34, 0, 1] := by decide

/-- F8: the largest product. -/
theorem test_m1l2 : sums (exec (.hdrM1L2 14 2 rest1) State.reset) = some [0, 384, 32000, 1728, 1724, 0, 1] := by decide

/-- S34: Layer II, Mono, MEXT '11': Bands(16). -/
theorem test_m1l2_bands :
    (regsOf (exec (.hdrM1L2 9 0 { rest1 with mode := 3, mext := 3 }) State.reset)).map
      (fun r => (r.outHdr, r.outMxk, r.outBands, r.outMode)) = some (0xFFFD90F0, 0, 16, 3) := by decide

/-- S40: every free bit set. -/
theorem test_m1l3 : sums (exec (.hdrM1L3 14 2
      { prot := 1, pad := 1, priv := 1, mode := 3, mext := 3, copy := 1, orig := 1, emph := 3 }) State.reset) =
    some [0, 320, 32000, 1441, 1437, 0, 1] := by decide

/-- S27: Layer III, MEXT '10': intensity 0, ms 1. -/
theorem test_m1l3_stereo : (regsOf (exec (.hdrM1L3 9 0 { rest1 with mode := 1, mext := 2 }) State.reset)).map
      (fun r => (r.outHdr, r.outMxk, r.outBands, r.outIs, r.outMs)) = some (0xFFFB9060, 1, 0, 0, 1) := by decide

/-- Section 2.4, Mpeg2 LayerI index 13. -/
theorem test_m2l1 : sums (exec (.hdrM2L1 13 0 rest1) State.reset) = some [0, 224, 22050, 487, 483, 0, 1] := by decide

/-- Section 2.4, Mpeg2 LayerII index 14. -/
theorem test_m2l2 : sums (exec (.hdrM2L2 14 2 rest1) State.reset) = some [0, 160, 16000, 1440, 1436, 0, 1] := by decide

/-- F10: 1152 samples in Mpeg2 LayerIII, and no other field enters the length. -/
theorem test_m2l3 : sums (exec (.hdrM2L3 8 0
      { prot := 0, pad := 0, priv := 1, mode := 3, mext := 3, copy := 1, orig := 1, emph := 3 }) State.reset) =
    some [0, 64, 22050, 417, 413, 0, 1] := by decide

/-- F11. -/
theorem test_m25l1 : sums (exec (.hdrM25L1 14 2 rest1pad) State.reset) = some [0, 256, 8000, 1540, 1536, 0, 1] := by decide

/-- F3: the largest frame. -/
theorem test_m25l2 : sums (exec (.hdrM25L2 14 2 rest1pad) State.reset) = some [0, 160, 8000, 2881, 2877, 0, 1] := by decide

/-- F2: the largest frame. -/
theorem test_m25l3 : sums (exec (.hdrM25L3 14 2 rest1pad) State.reset) = some [0, 160, 8000, 2881, 2877, 0, 1] := by decide

/-- S20: protection bit 0 gives out_crc 1. -/
theorem test_crc : (regsOf (step (fed [dec 0xFFFA9000]))).map (fun r => (r.outProt, r.outCrc, r.outFlen)) = some (0, 1, 417) := by
  decide

/-- The host's way to place an instruction: the next step runs it. -/
theorem test_fetch_word : sums (step (State.reset.withFetchWord 32 0xFFFB9000)) = some [0, 128, 44100, 417, 413, 0, 1] := by
  decide

/-! ### One call of the host: 95_test_vectors.md section 2.6 and P2 -/

/-- H1. -/
theorem test_host_h1 : called (nextFrame (source [] .eos)) = some (.none, 0, .exhausted) := by decide

/-- H2. -/
theorem test_host_h2 : called (nextFrame (source [0xFF, 0xFB, 0x90] .eos)) = some (.err .truncated, 3, .exhausted) := by decide

/-- H3. -/
theorem test_host_h3 : called (nextFrame (source [] (.ioErr 5))) = some (.err (.io 5), 0, .exhausted) := by decide

/-- H4. -/
theorem test_host_h4 : called (nextFrame (source [0xFF, 0xF9, 0x90, 0x00] .eos)) =
    some (.err (.invalidHeader .badLayer), 4, .exhausted) := by decide

/-- H5. -/
theorem test_host_h5 : called (nextFrame (source [0xFF, 0xFB, 0x00, 0x00] .eos)) =
    some (.err .unsupportedFreeFormat, 4, .exhausted) := by decide

/-- H7. -/
theorem test_host_h7 : called (nextFrame (source [0xFF, 0xFB, 0x90, 0x00] .eos)) = some (.err .truncated, 4, .exhausted) := by
  decide

/-- P2's frame C: 38 bytes, of which 34 are payload. -/
theorem test_host_p2c : called (nextFrame (source ([0xFF, 0xFF, 0x12, 0x00] ++ List.replicate 34 7 ++ [9]) .eos)) =
    some (.frame (decoded 0xFFFF1200) (List.replicate 34 7), 38, .scanning) := by decide

/-! ### Witnesses: the statements' hypotheses can be met -/

/-- The two kinds of state the statements speak of, after and before the first RESET. -/
theorem witness_AfterReset : AfterReset State.reset ∧ (∀ es, AfterReset (fed es)) ∧ ∀ es, ¬ AfterReset (unreset es) :=
  ⟨rfl, fun _ => rfl, fun _ => Bool.false_ne_true⟩

theorem witness_DecodeOfEncodeIsInstruction : WellFormed (.hdrM25L3 14 2 rest1pad) := by decide

theorem witness_EveryWordHasExactlyOneClass :
    WellFormed (.hdrM1L3 9 0 rest1) ∧ encode (.hdrM1L3 9 0 rest1) = .hdr32 0xFFFB9000 := by decide

/-- One word for each clause, at the boundary of its condition (S3, S4, S5, S8, S17, S14, S1). -/
theorem witness_ClassConditionsInOrder :
    fSync 0xFFDFFFFF ≠ 0x7FF ∧ (fSync 0xFFE00000 = 0x7FF ∧ fLayer 0xFFE00000 = 0) ∧
    (fSync 0xFFFFFFFF = 0x7FF ∧ fLayer 0xFFFFFFFF = layerCode .layerI ∧ fBri 0xFFFFFFFF = 15) ∧
    (fLayer 0xFFEB9000 = layerCode .layerIII ∧ fBri 0xFFEB9000 ≠ 15 ∧ fVer 0xFFEB9000 = 0b01) ∧
    (fBri 0xFFFB9C00 ≠ 15 ∧ fVer 0xFFFB9C00 ≠ 0b01 ∧ fSri 0xFFFB9C00 = 3) ∧
    (fBri 0xFFFB0000 = 0 ∧ fVer 0xFFFB0000 ≠ 0b01 ∧ fSri 0xFFFB0000 ≠ 3) ∧
    (fBri 0xFFFBE800 ≠ 0 ∧ fBri 0xFFFBE800 ≠ 15 ∧ fVer 0xFFFBE800 ≠ 0b01 ∧ fSri 0xFFFBE800 ≠ 3) := by decide

theorem witness_BytesDecodeAndShortBytesAreRejected :
    WellFormed (.hdrM1L1 1 1 rest1) ∧ [0xFF, 0xFB, (0x90 : Byte)].length < 4 ∧ [1, 0xFF, 0xFB, (0x90 : Byte)].length < 5 := by
  decide

theorem witness_StreamBitOrder : 1 ≤ 1 ∧ 1 ≤ 32 ∧ 32 ≤ 32 := by decide

theorem witness_StepPerformsTheSelectedCycle :
    nextEvent (fed [.edge ⟨1, 1, 5⟩]) = .edge ⟨1, 1, 5⟩ ∧ nextEvent (fed [.edge ⟨0, 1, 5⟩]) = .edge ⟨0, 1, 5⟩ ∧
    nextEvent (fed []) = .edge ⟨0, 0, 0⟩ := by decide

theorem witness_StepRunsTheFetchedInstruction :
    decodeTableWord 8 1 = some (.decode 0) ∧ decodeTableWord 32 0xFFFB9000 = some (.hdrM1L3 9 0 rest1) := by decide

theorem witness_NoWordListedIsIdle : State.reset.feed = [] := by decide

theorem witness_OutsideEventsStopByName :
    nextEvent (fed [.unstable]) = .unstable ∧ nextEvent (fed [.contended]) = .contended ∧
    nextEvent (fed [.clockStopped]) = .clockStopped := by decide

theorem witness_ResetAfterPowerUpClearsTheDraws :
    (fed [.powerCycle, .edge ⟨1, 0, 0⟩]).feed = .powerCycle :: .edge ⟨1, 0, 0⟩ :: [] ∧ (1 : Bit) = 1 := by decide

theorem witness_ResetBeatsInValid : nextEvent (fed [.edge ⟨1, 1, 0xFFFB9000⟩]) = .edge ⟨1, 1, 0xFFFB9000⟩ := by decide

/-- C4's last edge. -/
theorem witness_IdleLowersValidAndKeepsTheRest :
    AfterReset (fed [.edge ⟨0, 0, 0xFEFB9000⟩]) ∧
    nextEvent (fed [.edge ⟨0, 0, 0xFEFB9000⟩]) = .edge ⟨0, 0, 0xFEFB9000⟩ := by
  decide

/-- One word for each code (S2, S4, S12, S8, S17). -/
theorem witness_FailedDecodeReportsEarliestError :
    AfterReset State.reset ∧
    (¬ Decodable 0xFEFB9000 ∧ earliestError 0xFEFB9000 = 1) ∧ (¬ Decodable 0xFFE00000 ∧ earliestError 0xFFE00000 = 2) ∧
    (¬ Decodable 0xFFFBF000 ∧ earliestError 0xFFFBF000 = 3) ∧ (¬ Decodable 0xFFEB9000 ∧ earliestError 0xFFEB9000 = 4) ∧
    (¬ Decodable 0xFFFB9C00 ∧ earliestError 0xFFFB9C00 = 4) := by decide

theorem witness_IndexedDecodeWritesEveryRegister :
    AfterReset State.reset ∧
    HasLength 0xFFFF1400 ∧ HasLength 0xFFE3EA00 ∧ HasLength 0xFFFBEBFF := by
  decide

theorem witness_FreeFormatDecodeWritesEveryRegister :
    AfterReset State.reset ∧
    Decodable 0xFFFB0000 ∧ fBri 0xFFFB0000 = 0 := by decide

/-- Both branches: S14, and S15 and S16. -/
theorem witness_FreeFormatHasNoLength :
    AfterReset State.reset ∧
    (fSync 0xFFFB0000 = 0x7FF ∧ fLayer 0xFFFB0000 ≠ 0b00 ∧ fBri 0xFFFB0000 = 0 ∧
      ¬ (fVer 0xFFFB0000 = 0b01 ∨ fSri 0xFFFB0000 = 3)) ∧
    (fSync 0xFFFB0C00 = 0x7FF ∧ fLayer 0xFFFB0C00 ≠ 0b00 ∧ fBri 0xFFFB0C00 = 0 ∧ fSri 0xFFFB0C00 = 3) ∧
    (fSync 0xFFEB0000 = 0x7FF ∧ fLayer 0xFFEB0000 ≠ 0b00 ∧ fBri 0xFFEB0000 = 0 ∧ fVer 0xFFEB0000 = 0b01) := by decide

theorem witness_DecodeForgetsTheState :
    AfterReset State.reset ∧ AfterReset { State.reset with regs := decoded 0xFFFB9000 } := by decide

theorem witness_BackToBackDecodes :
    AfterReset (fed [dec 0xFFE9FC00, dec 0xFFFB9000]) ∧
    (fed [dec 0xFFE9FC00, dec 0xFFFB9000]).feed = .edge (wordPorts 0xFFE9FC00) :: .edge (wordPorts 0xFFFB9000) :: [] := by decide

theorem witness_FailingClassesReportTheirCode :
    AfterReset State.reset ∧
    (0x7FE : BitVec 11) ≠ 0x7FF ∧ (14 : BitVec 4) ≠ 15 ∧ Version.mpeg25 ≠ .reserved := by decide

theorem witness_FreeFormatClassCompletes :
    AfterReset State.reset ∧
    Version.mpeg2 ≠ .reserved ∧ (2 : BitVec 2) ≠ 3 := by decide

theorem witness_Mpeg1ClassesComplete :
    AfterReset State.reset ∧
    (14 : BitVec 4) ≠ 0 ∧ (14 : BitVec 4) ≠ 15 ∧ (2 : BitVec 2) ≠ 3 := by decide

theorem witness_Mpeg2ClassesComplete :
    AfterReset State.reset ∧
    (1 : BitVec 4) ≠ 0 ∧ (1 : BitVec 4) ≠ 15 ∧ (0 : BitVec 2) ≠ 3 := by decide

theorem witness_Mpeg25ClassesComplete :
    AfterReset State.reset ∧
    (9 : BitVec 4) ≠ 0 ∧ (9 : BitVec 4) ≠ 15 ∧ (1 : BitVec 2) ≠ 3 := by decide

/-- Both branches: S27 and S34. -/
theorem witness_ModeExtensionFollowsTheLayer :
    AfterReset State.reset ∧
    (Decodable 0xFFFB9060 ∧ fLayer 0xFFFB9060 = 0b01) ∧ (Decodable 0xFFFD90F0 ∧ fLayer 0xFFFD90F0 ≠ 0b01) := by decide

theorem witness_RecordVariantFollowsTheLayer :
    decodeWord 0xFFFD9030 = .ok (headerOf .mpeg1 .layerII (.indexed 160) 44100 { rest1 with mext := 3 }) := by decide

theorem witness_RegistersRebuildTheWord : AfterReset State.reset ∧ Decodable 0xFFFBEBFF := by decide

theorem witness_BitrateTablesIncrease : (1 : BitVec 4) ≠ 0 ∧ (1 : BitVec 4) < 14 ∧ (14 : BitVec 4) ≠ 15 := by decide

theorem witness_FrameLengthFormula :
    AfterReset State.reset ∧ HasLength 0xFFFF1200 ∧ HasLength 0xFFFB9200 ∧ HasLength 0xFFFB9000 := by decide

theorem witness_FrameLengthIsMonotone :
    (32 : Half) ≤ 448 ∧ (8000 : Half) ≠ 0 ∧ (8000 : Half) ≤ 48000 := by decide

theorem witness_FrameLengthBounds : AfterReset State.reset ∧ HasLength 0xFFFF1400 ∧ HasLength 0xFFE3EA00 := by decide

/-- F9 and F10. -/
theorem witness_OtherFieldsDoNotEnterTheLength :
    AfterReset State.reset ∧
    HasLength 0xFFF38000 ∧ fSync 0xFFF281FF = fSync 0xFFF38000 ∧ fVer 0xFFF281FF = fVer 0xFFF38000 ∧
    fLayer 0xFFF281FF = fLayer 0xFFF38000 ∧ fBri 0xFFF281FF = fBri 0xFFF38000 ∧ fSri 0xFFF281FF = fSri 0xFFF38000 ∧
    fPad 0xFFF281FF = fPad 0xFFF38000 := by decide

/-- Both slots: Layer I and Layer II. -/
theorem witness_PaddingAddsOneSlot :
    AfterReset State.reset ∧
    HasLength (hdrWord 0x7FF 3 3 1 0 { rest1 with pad := 0 }) ∧ HasLength (hdrWord 0x7FF 3 2 1 0 { rest1 with pad := 0 }) := by
  decide

theorem witness_ValidMarksExactlyTheDecodes :
    (AfterReset (fed []) ∧ AfterReset (fed [dec 0xFFFB9000])) ∧
    nextEvent (fed [dec 0xFFFB9000]) = .edge ⟨0, 1, 0xFFFB9000⟩ ∧ nextEvent (fed []) = .edge ⟨0, 0, 0⟩ := by decide

/-- An IDLE and a RESET edge. -/
theorem witness_ErrorsComeFromDecodeAlone :
    (AfterReset (fed []) ∧ AfterReset (fed [.edge ⟨1, 1, 9⟩])) ∧
    (nextEvent (fed []) = .edge ⟨0, 0, 0⟩ ∧ ¬ ((0 : Bit) = 0 ∧ (0 : Bit) = 1) ∧ (fed []).regs.outErr = 0) ∧
    (nextEvent (fed [.edge ⟨1, 1, 9⟩]) = .edge ⟨1, 1, 9⟩ ∧ ¬ ((1 : Bit) = 0 ∧ (1 : Bit) = 1)) := by decide

theorem witness_NoInputStopsTheMachine :
    CleanFeed (fed [dec 0, .edge ⟨1, 0, 0⟩]) ∧ 2 ≤ (fed [dec 0, .edge ⟨1, 0, 0⟩]).feed.length := by decide

theorem witness_StepKeepsRegistersLegal :
    Legal (fed [dec 0xFFFB9000]) ∧ ∃ t, step (fed [dec 0xFFFB9000]) = .next t :=
  ⟨fun _ => ⟨by decide, by decide, by decide⟩, _, rfl⟩

/-- From the registers of a free-format and of a failed decode, too. -/
theorem witness_StepKeepsRegistersLegal_decoded :
    Legal { fed [] with regs := decoded 0xFFFB0000 } ∧ Legal { fed [] with regs := decoded 0xFFE9FC00 } :=
  ⟨fun _ => ⟨by decide, by decide, by decide⟩, fun _ => ⟨by decide, by decide, by decide⟩⟩

/-- From the registers of a decode, too. -/
theorem witness_StepKeepsRegistersTracking :
    Tracking { fed [] with regs := decoded 0xFFFB9000 } ∧
    AfterReset { fed [] with regs := decoded 0xFFFB9000 } ∧ Powered { fed [] with regs := decoded 0xFFFB9000 } ∧
    ∃ t, step { fed [] with regs := decoded 0xFFFB9000 } = .next t := ⟨by decide, by decide, by decide, _, rfl⟩

theorem witness_ExhaustedReadsNothing : (exhaust State.reset).host.mode = .exhausted := by decide

/-- Each clause: an empty source, one and three bytes, a source that fails with no byte, and one that fails after one and three. -/
theorem witness_CleanEndOnlyAtABoundary :
    (Scanning (source [] .eos) ∧ (source [] .eos).host.src.bytes = [] ∧ (source [] .eos).host.src.ending = .eos) ∧
    (∀ bs ∈ [[1], [1, 2, (3 : Byte)]], Scanning (source bs .eos) ∧ 1 ≤ (source bs .eos).host.src.bytes.length ∧
      (source bs .eos).host.src.bytes.length < 4 ∧ (source bs .eos).host.src.ending = .eos) ∧
    (Scanning (source [] (.ioErr 2)) ∧ (source [] (.ioErr 2)).host.src.bytes = [] ∧
      (source [] (.ioErr 2)).host.src.ending = .ioErr 2) ∧
    (∀ bs ∈ [[1], [1, 2, (3 : Byte)]], Scanning (source bs (.ioErr 2)) ∧ 1 ≤ (source bs (.ioErr 2)).host.src.bytes.length ∧
      (source bs (.ioErr 2)).host.src.bytes.length < 4 ∧ (source bs (.ioErr 2)).host.src.ending = .ioErr 2) := by decide

/-- F1's frame: 32 bytes. -/
theorem witness_SuccessfulCallConsumesOneFrame :
    ScanningReset (source (frameBytes (0xFFFF1400, List.replicate 28 0) ++ [7]) .eos) ∧
    ValidFrame (0xFFFF1400, List.replicate 28 0) := ⟨⟨rfl, rfl⟩, by unfold ValidFrame; decide⟩

/-- Both clauses: H4 and H5. -/
theorem witness_HeaderErrorsEndTheScan :
    ScanningReset (source (wordBytes 0xFFF99000 ++ [1]) .eos) ∧ ¬ Decodable 0xFFF99000 ∧
    ScanningReset (source (wordBytes 0xFFFB0000 ++ [1]) .eos) ∧ Decodable 0xFFFB0000 ∧ fBri 0xFFFB0000 = 0 := by decide

/-- H6 with fewer bytes: 27 of the 28. -/
theorem witness_ShortPayloadEndsTheScan :
    ScanningReset (source (wordBytes 0xFFFF1400 ++ List.replicate 27 0) .eos) ∧ HasLength 0xFFFF1400 ∧
    (List.replicate 27 (0 : Byte)).length < (decoded 0xFFFF1400).outPlen.toNat := by decide

/-- The same header before a source that fails, with 27 of the 28 bytes and with none. -/
theorem witness_ShortPayloadEndsTheScan_failing :
    ∀ bs ∈ [[], List.replicate 27 (0 : Byte)], ScanningReset (source (wordBytes 0xFFFF1400 ++ bs) (.ioErr 5)) ∧
      (source (wordBytes 0xFFFF1400 ++ bs) (.ioErr 5)).host.src.bytes = wordBytes 0xFFFF1400 ++ bs ∧
      (source (wordBytes 0xFFFF1400 ++ bs) (.ioErr 5)).host.src.ending = .ioErr 5 ∧
      bs.length < (decoded 0xFFFF1400).outPlen.toNat := by decide

/-- Two frames and two bytes over (as P3). -/
theorem witness_ScanReturnsEveryFrame :
    (∀ f ∈ [((0xFFFF1400 : Word), List.replicate 28 (0 : Byte)), (0xFFFF1200, List.replicate 34 0)], ValidFrame f) ∧
    [0xFF, (0xFB : Byte)].length < 4 ∧ ScanningReset (source [] .eos) := by
  unfold ValidFrame; decide

theorem witness_RunsPastTheListAreIdle :
    ({ State.reset with regs := decoded 0xFFFB9000 }.feed = [] ∧ AfterReset { State.reset with regs := decoded 0xFFFB9000 }) ∧
    ((unreset []).feed = [] ∧ ¬ AfterReset (unreset [])) := by decide

/-- No byte and three bytes before the failure. -/
theorem witness_FailingHeaderReadIsIo :
    ∀ bs ∈ [[], [1, 2, (3 : Byte)]], Scanning (source bs (.ioErr 2)) ∧ (source bs (.ioErr 2)).host.src.bytes.length < 4 ∧
      (source bs (.ioErr 2)).host.src.ending = .ioErr 2 := by decide

theorem witness_UnresetEdgesDrawEveryRegister : ¬ AfterReset (unreset []) ∧ (Instr.decode 0 ≠ .reset) ∧ Instr.idle ≠ .reset := by
  decide

/-- A power cycle, a DECODE, an IDLE, a RESET, and no edge at all before the RESET. -/
theorem witness_FirstResetEndsTheDraws :
    (∀ p ∈ [wordPorts 0xFFFB9000, idlePorts], p.rst = 0) ∧ (⟨1, 0, 0⟩ : Ports).rst = 1 ∧
    (fed [.powerCycle, dec 0xFFFB9000, .edge idlePorts, .edge ⟨1, 0, 0⟩]).feed =
      .powerCycle :: [wordPorts 0xFFFB9000, idlePorts].map .edge ++ .edge ⟨1, 0, 0⟩ :: [] ∧
    (fed [.powerCycle, .edge ⟨1, 0, 0⟩]).feed = .powerCycle :: [].map .edge ++ .edge ⟨1, 0, 0⟩ :: [] := by decide

end Sys2Proof.Tests
end

section
/-! PROOFS of 00_scope.md: the bit order of the header word. -/

namespace Sys2Proof

/-- The bits of the packed word, from byte3 in W[7:0] up to byte0 in W[31:24] (00_scope.md R12). -/
theorem packWord_getLsbD (b0 b1 b2 b3 : Byte) (i : Nat) :
    (packWord b0 b1 b2 b3).getLsbD i =
      if i < 8 then b3.getLsbD i else if i < 16 then b2.getLsbD (i - 8)
      else if i < 24 then b1.getLsbD (i - 16) else b0.getLsbD (i - 24) := by
  have inByte2 : i < 16 ↔ i - 8 < 8 := by omega
  have inByte1 : i < 24 ↔ i - 8 - 8 < 8 := by omega
  have toByte1 : i - 16 = i - 8 - 8 := by omega
  have toByte0 : i - 24 = i - 8 - 8 - 8 := by omega
  simp only [inByte2, inByte1, toByte1, toByte0]
  rw [← BitVec.getLsbD_append, ← BitVec.getLsbD_append, ← BitVec.getLsbD_append, packWord]

/-- The same by bytes in stream order: byte `k` is W[31 - 8k : 24 - 8k]. -/
theorem packWord_getLsbD_byte (b0 b1 b2 b3 : Byte) {k j : Nat} (hk : k < 4) (hj : j < 8) :
    (packWord b0 b1 b2 b3).getLsbD (8 * (3 - k) + j) = ([b0, b1, b2, b3].getD k 0).getLsbD j := by
  rw [packWord_getLsbD]
  match k, hk with
  | 0, _ => rw [if_neg (by omega), if_neg (by omega), if_neg (by omega), Nat.add_sub_cancel_left]; rfl
  | 1, _ => rw [if_neg (by omega), if_neg (by omega), if_pos (by omega), Nat.add_sub_cancel_left]; rfl
  | 2, _ => rw [if_neg (by omega), if_pos (by omega), Nat.add_sub_cancel_left]; rfl
  | 3, _ => rw [if_pos (by omega), Nat.sub_self, Nat.mul_zero, Nat.zero_add]; rfl

/-- Settles O5: the n-th stream bit is bit `7 - (n - 1) % 8` of byte `(n - 1) / 8`,
and `packWord_getLsbD_byte` says where that byte stands in the word. -/
theorem streamBitOrder : Obligations.StreamBitOrder := by
  unfold Obligations.StreamBitOrder
  intro b0 b1 b2 b3 n hlo hhi
  have hbyte : (n - 1) / 8 < 4 := by omega
  have hbit : 7 - (n - 1) % 8 < 8 := by omega
  have hpos : 32 - n = 8 * (3 - (n - 1) / 8) + (7 - (n - 1) % 8) := by omega
  rw [hpos, packWord_getLsbD_byte b0 b1 b2 b3 hbyte hbit]

end Sys2Proof
end

section
/-! PROOFS of 10_state.md: the output registers. The registers of decode(W) are one of three columns of R28, in the rules' own
terms (`decoded_induction`); the statements about DECODE, and the two invariants that every step keeps (`step_keeps_regs`), follow
from that. -/

namespace Sys2Proof

open Machine Claims

/-! ### The tables and the frame length, by the codes of the word -/

/-- The code of a version is not that of Reserved exactly if the version is not Reserved (30_encoding.md R73). -/
theorem versionOf_ne_reserved {c : BitVec 2} : versionOf c ≠ .reserved ↔ c ≠ 0b01 := by
  revert c; decide

theorem layerCode_eq_layerIII {l : Layer} : layerCode l = 0b01 ↔ l = .layerIII := by
  cases l <;> decide

/-- The rules' kbps list of a version and layer code is the bitrate table the codes select (42_lut.md R160 to R165). -/
theorem kbpsList_eq_brCells (c : BitVec 2) (l : Layer) :
    kbpsList c (layerCode l) = (brCells (brSel (versionOf c) l)).map BitVec.toNat := by
  revert c; cases l <;> decide

/-- The rules' Hz list of a version code is the sample-rate table the code selects (42_lut.md R167 to R170). -/
theorem hzList_eq_srCells {c : BitVec 2} {t : SrTable} (ht : srSel (versionOf c) = some t) :
    hzList c = (srCells t).map BitVec.toNat := by
  revert c t; decide

theorem kbpsList_brLut (c : BitVec 2) (l : Layer) {i : BitVec 4} (h0 : i ≠ 0) (h15 : i ≠ 15) :
    (kbpsList c (layerCode l))[i.toNat - 1]? = some (brLut (brSel (versionOf c) l) i).toNat := by
  rw [kbpsList_eq_brCells, List.getElem?_map, brLut_cell _ i h0 h15, Option.map_some]

theorem hzList_srLut {c : BitVec 2} {t : SrTable} (ht : srSel (versionOf c) = some t) {i : BitVec 2} (h3 : i ≠ 3) :
    (hzList c)[i.toNat]? = some (srLut t i).toNat := by
  rw [hzList_eq_srCells ht, List.getElem?_map, srLut_cell t i h3, Option.map_some]

/-- The model's frame length is the one expression of 43_frame_length.md R185. -/
theorem frameLength_eq_lengthRule (l : Layer) (kbps hz : Half) (pad : Bit) :
    frameLength l kbps hz pad = lengthRule (layerCode l) kbps.toNat hz.toNat pad := by
  have rate : byteRate kbps = kbps.toNat * 125 := by unfold byteRate; omega
  have slot : paddingBytes l pad = if pad = 0 then 0 else if layerCode l = 0b11 then 4 else 1 := by
    revert pad; cases l <;> decide
  have samples : samplesPerFrame l = if layerCode l = 0b11 then 384 else 1152 := by cases l <;> rfl
  rw [frameLength, baseSize, lengthRule, rate, slot, samples]

/-- 43_frame_length.md R189 and R190: every length the tables give is 32 to 2881. -/
theorem lengthRule_bounds : ∀ ver layer : BitVec 2, ∀ k ∈ kbpsList ver layer, ∀ h ∈ hzList ver, ∀ pad : Bit,
    32 ≤ lengthRule layer k h pad ∧ lengthRule layer k h pad ≤ 2881 := by
  decide

/-- No sampling rate of the tables is above 48000 Hz (42_lut.md R168). -/
theorem hzList_le : ∀ ver : BitVec 2, ∀ h ∈ hzList ver, h ≤ 48000 := by
  decide

/-- Every bitrate of the tables is 8 to 448 kbps (42_lut.md R161 to R165). -/
theorem kbpsList_bounds : ∀ ver layer : BitVec 2, ∀ k ∈ kbpsList ver layer, 8 ≤ k ∧ k ≤ 448 := by
  decide

/-! ### What a DECODE leaves -/

/-- 41_header_decode.md R135: the intensity flag is bit 4 of the word. -/
theorem intensityOf_fMext (w : Word) : intensityOf (fMext w) = w.extractLsb' 4 1 := by
  ext i hi
  obtain rfl : i = 0 := by omega
  simp [intensityOf, fMext]

/-- 41_header_decode.md R135: the ms flag is bit 5 of the word. -/
theorem msOf_fMext (w : Word) : msOf (fMext w) = w.extractLsb' 5 1 := by
  ext i hi
  obtain rfl : i = 0 := by omega
  simp [msOf, fMext]

/-- The five bits of `out_bands` hold the band limit whole (41_header_decode.md R134). -/
theorem bandsOf_setWidth : ∀ c : BitVec 2, (bandsOf c).setWidth 5 = BitVec.ofNat 5 (4 * (c.toNat + 1)) := by
  decide

/-- 41_header_decode.md R134: a band limit is 4, 8, 12 or 16. -/
theorem bandsOf_mem : ∀ c : BitVec 2, bandsOf c = 4 ∨ bandsOf c = 8 ∨ bandsOf c = 12 ∨ bandsOf c = 16 := by
  decide

theorem crcFlag_eq_ite : ∀ b : Bit, crcFlag b = if b = 0 then 1 else 0 := by
  decide

theorem flenOut_eq (h : Header) : flenOut h = BitVec.ofNat 16 ((frameSize h).getD 0) := by
  unfold flenOut; cases frameSize h <;> rfl

theorem plenOut_eq (h : Header) : plenOut h = BitVec.ofNat 16 ((frameSize h).getD 0 - 4) := by
  unfold plenOut; cases frameSize h <;> rfl

/-- frame_size(H) of an indexed record is the rules' expression (43_frame_length.md R185). -/
theorem frameSize_indexed (v : Version) (l : Layer) (k hz : Half) (m : HdrRest) :
    frameSize (headerOf v l (.indexed k) hz m) = some (lengthRule (layerCode l) k.toNat hz.toNat m.pad) := by
  simp [frameSize, frameLength_eq_lengthRule]

/-- A free-format record has no frame size (43_frame_length.md R180). -/
theorem frameSize_freeFormat (v : Version) (l : Layer) (hz : Half) (m : HdrRest) :
    frameSize (headerOf v l .freeFormat hz m) = none := rfl

/-- The registers of a record built from the layer of the word are the 'on ok' column of 10_state.md R28. -/
theorem okRegs_headerOf {w : Word} {l : Layer} (hl : layerOf (fLayer w) = some l) (v : Version) (b : Bitrate) (hz : Half) :
    okRegs w (headerOf v l b hz (fRest w)) =
      okColumn w (freeFlag b) (lvalidFlag b) (kbpsOut b).toNat hz.toNat
        ((frameSize (headerOf v l b hz (fRest w))).getD 0) ((frameSize (headerOf v l b hz (fRest w))).getD 0 - 4) := by
  have hcode : fLayer w = 0b01 ↔ l = .layerIII := by rw [← layerCode_of_layerOf hl, layerCode_eq_layerIII]
  simp only [okRegs, okColumn, crcFlag_eq_ite, flenOut_eq, plenOut_eq, headerOf_modeExtension, hcode, headerOf_bitrate,
    headerOf_samplingRate, BitVec.ofNat_toNat, BitVec.setWidth_eq]
  by_cases h3 : l = .layerIII
  · simp [h3, fRest, mxkFlag, bandsOut, isOut, msOut, intensityOf_fMext, msOf_fMext]
  · simp [h3, fRest, mxkFlag, bandsOut, isOut, msOut, bandsOf_setWidth]

/-- For every word of the set of 41_header_decode.md R140, decode(W) answers this record. -/
theorem decodeWord_of_decodable {w : Word} (hw : Decodable w) : ∃ l t, layerOf (fLayer w) = some l ∧
    srSel (versionOf (fVer w)) = some t ∧ decodeWord w = .ok (headerOf (versionOf (fVer w)) l
      (bitrateOf (versionOf (fVer w)) l (fBri w)) (srLut t (fSri w)) (fRest w)) := by
  obtain ⟨hsync, hver, hlayer, h15, h3⟩ := hw
  rcases decodeWord_cases w with ⟨h, -⟩ | ⟨-, h, -⟩ | ⟨_, -, -, h, -⟩ | ⟨_, -, -, -, h, -⟩ | ⟨l, t, -, hl, -, ht, -, -, hok⟩
  · exact absurd hsync h
  · exact absurd (layerOf_eq_none.1 h) hlayer
  · exact absurd h h15
  · exact absurd h (not_or.2 ⟨versionOf_ne_reserved.2 hver, h3⟩)
  · exact ⟨l, t, hl, ht, hok⟩

/-- Every other word fails. -/
theorem decodeWord_of_not_decodable {w : Word} (hw : ¬ Decodable w) : ∃ e, decodeWord w = .fail e := by
  rcases decodeWord_cases w with ⟨-, h⟩ | ⟨-, -, h⟩ | ⟨_, -, -, -, h⟩ | ⟨_, -, -, -, -, h⟩ | ⟨l, t, hs, hl, h15, -, hr, h3, -⟩
  · exact ⟨_, h⟩
  · exact ⟨_, h⟩
  · exact ⟨_, h⟩
  · exact ⟨_, h⟩
  · have hlayer : fLayer w ≠ 0b00 := fun h => by simp [layerOf_eq_none.2 h] at hl
    exact absurd ⟨hs, versionOf_ne_reserved.1 hr, hlayer, h15, h3⟩ hw

/-- The registers of a word with an indexed bitrate (10_state.md R28, column 'on ok'). -/
theorem decoded_of_hasLength {w : Word} (hw : HasLength w) :
    ∃ k h, (kbpsList (fVer w) (fLayer w))[(fBri w).toNat - 1]? = some k ∧ (hzList (fVer w))[(fSri w).toNat]? = some h ∧
      decoded w = okColumn w 0 1 k h (lengthRule (fLayer w) k h (fPad w)) (lengthRule (fLayer w) k h (fPad w) - 4) := by
  obtain ⟨hdec, h0⟩ := hw
  obtain ⟨l, t, hl, ht, hok⟩ := decodeWord_of_decodable hdec
  obtain ⟨-, -, -, h15, h3⟩ := hdec
  have hcode := layerCode_of_layerOf hl
  refine ⟨_, _, hcode ▸ kbpsList_brLut (fVer w) l h0 h15, hzList_srLut ht h3, ?_⟩
  rw [decoded, hok, bitrateOf, if_neg h0, resultRegs, okRegs_headerOf hl, frameSize_indexed, hcode]
  rfl

/-- The registers of a decodable word with bitrate index 0 (10_state.md R28, column 'on ok'). -/
theorem decoded_of_freeFormat {w : Word} (hw : Decodable w) (h0 : fBri w = 0) :
    ∃ h, (hzList (fVer w))[(fSri w).toNat]? = some h ∧ decoded w = okColumn w 1 0 0 h 0 0 := by
  obtain ⟨l, t, hl, ht, hok⟩ := decodeWord_of_decodable hw
  obtain ⟨-, -, -, -, h3⟩ := hw
  refine ⟨_, hzList_srLut ht h3, ?_⟩
  rw [decoded, hok, bitrateOf, if_pos h0, resultRegs, okRegs_headerOf hl, frameSize_freeFormat]
  rfl

/-- The registers of any other word are the error report (60_exceptions.md R201). -/
theorem decoded_of_not_decodable {w : Word} (hw : ¬ Decodable w) : ∃ e, decoded w = failRegs w e := by
  obtain ⟨e, he⟩ := decodeWord_of_not_decodable hw
  exact ⟨e, by rw [decoded, he, resultRegs]⟩

/-- After the first RESET a DECODE writes the registers of decode(W) and nothing else (40_interface_ops.md R101). -/
theorem exec_decode_of_afterReset (w : Word) {s : State} (hs : AfterReset s) :
    exec (.decode w) s = .next (edgeTo s (decoded w)) := by
  rw [exec, execDecode, clock_of_reset _ hs]; rfl

/-- After the first RESET an IDLE lowers `out_valid` and does nothing else (40_interface_ops.md R102). -/
theorem exec_idle_of_afterReset {s : State} (hs : AfterReset s) : exec .idle s = .next (edgeTo s (idleRegs s.regs)) := by
  rw [exec, execIdle, clock_of_reset _ hs]; rfl

/-! ### The statements about DECODE -/

/-- Settles O18: the edge writes `decoded w`, which for an indexed word is the column of `decoded_of_hasLength`. -/
theorem indexedDecodeWritesEveryRegister : Obligations.IndexedDecodeWritesEveryRegister := by
  unfold Obligations.IndexedDecodeWritesEveryRegister
  intro w s hs hw
  obtain ⟨k, h, hk, hh, hregs⟩ := decoded_of_hasLength hw
  exact ⟨k, h, hk, hh, by rw [exec_decode_of_afterReset w hs, hregs]⟩

/-- Settles O19: the edge writes `decoded w`, which for bitrate index 0 is the column of `decoded_of_freeFormat`. -/
theorem freeFormatDecodeWritesEveryRegister : Obligations.FreeFormatDecodeWritesEveryRegister := by
  unfold Obligations.FreeFormatDecodeWritesEveryRegister
  intro w s hs hw h0
  obtain ⟨h, hh, hregs⟩ := decoded_of_freeFormat hw h0
  exact ⟨h, hh, by rw [exec_decode_of_afterReset w hs, hregs]⟩

/-- A predicate on registers holds of every decode if it holds of the error report and of the two columns on ok. -/
theorem decoded_induction {P : Regs → Prop} (w : Word) (hfail : ∀ e, P (failRegs w e))
    (hfree : Decodable w → fBri w = 0 → ∀ h ∈ hzList (fVer w), P (okColumn w 1 0 0 h 0 0))
    (hindexed : HasLength w → ∀ k ∈ kbpsList (fVer w) (fLayer w), ∀ h ∈ hzList (fVer w), ∀ n,
      n = lengthRule (fLayer w) k h (fPad w) → P (okColumn w 0 1 k h n (n - 4))) : P (decoded w) := by
  by_cases hw : Decodable w
  · by_cases h0 : fBri w = 0
    · obtain ⟨h, hh, hregs⟩ := decoded_of_freeFormat hw h0
      exact hregs ▸ hfree hw h0 h (List.mem_of_getElem? hh)
    · obtain ⟨k, h, hk, hh, hregs⟩ := decoded_of_hasLength ⟨hw, h0⟩
      exact hregs ▸ hindexed ⟨hw, h0⟩ k (List.mem_of_getElem? hk) h (List.mem_of_getElem? hh) _ rfl
  · obtain ⟨e, hregs⟩ := decoded_of_not_decodable hw
    exact hregs ▸ hfail e

/-- Every decode raises `out_valid` (10_state.md R31). -/
@[simp] theorem decoded_outValid (w : Word) : (decoded w).outValid = 1 := by
  unfold decoded; cases decodeWord w <;> rfl

/-- Every decode keeps its word in `out_hdr` (10_state.md R28). -/
@[simp] theorem decoded_outHdr (w : Word) : (decoded w).outHdr = w := by
  unfold decoded; cases decodeWord w <;> rfl

/-- Settles O38: the three patterns are the three columns of the decode. -/
theorem exactlyOneStatusAfterDecode : Obligations.ExactlyOneStatusAfterDecode := by
  unfold Obligations.ExactlyOneStatusAfterDecode
  intro w s hs
  refine ⟨_, exec_decode_of_afterReset w hs, decoded_outValid w, ?_⟩
  apply decoded_induction w (P := fun r => (r.outErr ≠ 0 ∧ r.outFree = 0 ∧ r.outLvalid = 0) ∨
    (r.outErr = 0 ∧ r.outFree = 1 ∧ r.outLvalid = 0) ∨ (r.outErr = 0 ∧ r.outFree = 0 ∧ r.outLvalid = 1))
  case hfail => exact fun e => .inl ⟨errCode_ne_zero e, rfl, rfl⟩
  case hfree => exact fun _ _ _ _ => .inr (.inl ⟨rfl, rfl, rfl⟩)
  case hindexed => exact fun _ _ _ _ _ _ _ => .inr (.inr ⟨rfl, rfl, rfl⟩)

/-- Settles O21: the registers after a DECODE are `decoded w`, in which the state does not occur. -/
theorem decodeForgetsTheState : Obligations.DecodeForgetsTheState := by
  unfold Obligations.DecodeForgetsTheState
  intro w s s' hs hs'
  exact ⟨_, _, exec_decode_of_afterReset w hs, exec_decode_of_afterReset w hs', rfl⟩

/-- Settles O29: the record of a decode is `headerOf` of the layer and of a version that is not Reserved. -/
theorem recordVariantFollowsTheLayer : Obligations.RecordVariantFollowsTheLayer := by
  unfold Obligations.RecordVariantFollowsTheLayer
  intro w h hok
  have hw : Decodable w := by
    by_contra hw
    obtain ⟨e, he⟩ := decodeWord_of_not_decodable hw
    rw [he] at hok; cases hok
  obtain ⟨l, t, -, -, hrec⟩ := decodeWord_of_decodable hw
  obtain ⟨-, hver, -⟩ := hw
  obtain rfl := DecodeResult.ok.inj (hok.symm.trans hrec)
  refine ⟨versionOf_ne_reserved.2 hver, ?_⟩
  rw [headerOf_layer, headerOf_modeExtension]
  by_cases h3 : l = .layerIII
  · exact .inl ⟨h3, _, _, if_pos h3⟩
  · exact .inr ⟨h3, _, if_neg h3, bandsOf_mem _⟩

/-! ### One edge -/

/-- Settles O42, by the two things an instruction can do: a reset edge, or an edge that writes some registers. -/
theorem instructionsChangeRegistersAlone : Obligations.InstructionsChangeRegistersAlone := by
  unfold Obligations.InstructionsChangeRegistersAlone
  intro i s
  rcases exec_cases i s with ⟨rfl, he⟩ | ⟨hi, r, he⟩
  · exact ⟨_, he, rfl, rfl, fun _ => ⟨rfl, rfl⟩, fun hne => absurd rfl hne⟩
  · refine ⟨_, he, clock_host r s, clock_feed r s, ?_, ?_⟩
    · intro h
      have hs : AfterReset s := h.resolve_left hi
      exact ⟨clock_draws r hs, (clock_resetDone r s).trans hs⟩
    · intro _ hs
      have hdraw := clock_of_unreset r (Bool.eq_false_iff.2 hs)
      exact ⟨by rw [hdraw, drawAll_draws], by rwa [AfterReset, clock_resetDone]⟩

/-- A clean edge performs the operation its ports select (40_interface_ops.md R100). -/
theorem step_of_edge {s : State} {p : Ports} (hp : nextEvent s = .edge p) : step s = exec (sampled p) s := by
  simp only [step, hp]

/-- Settles O39, by the three operations the ports can select. -/
theorem validMarksExactlyTheDecodes : Obligations.ValidMarksExactlyTheDecodes := by
  unfold Obligations.ValidMarksExactlyTheDecodes
  intro s p hs hp
  have hstep := step_of_edge hp
  rcases sampled_cases p with ⟨hr, hop⟩ | ⟨hr, hv, hop⟩ | ⟨hr, hv, hop⟩
  · exact ⟨resetEdge s, by rw [hstep, hop]; rfl, by simp [hr, Regs.zero]⟩
  · have hs : AfterReset s := hs.resolve_right (by simp [hr])
    exact ⟨_, by rw [hstep, hop, exec_decode_of_afterReset _ hs], by simp [edgeTo, hr, hv]⟩
  · have hs : AfterReset s := hs.resolve_right (by simp [hr])
    exact ⟨_, by rw [hstep, hop, exec_idle_of_afterReset hs], by simp [edgeTo, hr, hv]⟩

/-! ### What every step keeps -/

/-- Everything a step that goes on can do: a RESET, a DECODE, an IDLE or a power cycle. -/
theorem step_next_cases {s t : State} (h : step s = .next t) :
    t = resetEdge s ∨ (∃ w, t = clock (decoded w) s) ∨ t = clock (idleRegs s.regs) s ∨
      (nextEvent s = .powerCycle ∧ t = powerUp s) := by
  rcases step_cases s with ⟨p, -, he⟩ | ⟨hev, he⟩ | ⟨-, he⟩ | ⟨-, he⟩ | ⟨-, he⟩ <;> rw [he] at h
  case inl =>
    rcases sampled_cases p with ⟨-, hop⟩ | ⟨-, -, hop⟩ | ⟨-, -, hop⟩ <;> rw [hop] at h <;> cases h
    · exact .inl rfl
    · exact .inr (.inl ⟨p.inHdr, rfl⟩)
    · exact .inr (.inr (.inl rfl))
  all_goals cases h
  exact .inr (.inr (.inr ⟨hev, rfl⟩))

/-- Where power stays on, no step is a power cycle. -/
theorem nextEvent_ne_powerCycle {s : State} (hp : Powered s) : nextEvent s ≠ .powerCycle := by
  intro h
  rcases nextEvent_mem s with hidle | hmem
  · rw [hidle] at h; cases h
  · exact hp (h ▸ hmem)

/-- While power stays on, a state after the first RESET is followed by one (70_reset_and_hazards.md R242). -/
theorem step_keeps_afterReset {s t : State} (h : step s = .next t) (hs : AfterReset s) (hp : Powered s) :
    AfterReset t ∧ Powered t := by
  have hfeed : t.feed = s.feed.tail → Powered t := fun ht hmem => hp (List.mem_of_mem_tail (ht ▸ hmem))
  rcases step_next_cases h with rfl | ⟨w, rfl⟩ | rfl | ⟨hev, -⟩
  · exact ⟨rfl, hfeed rfl⟩
  · exact ⟨(clock_resetDone _ s).trans hs, hfeed (clock_feed _ s)⟩
  · exact ⟨(clock_resetDone _ s).trans hs, hfeed (clock_feed _ s)⟩
  · exact absurd hev (nextEvent_ne_powerCycle hp)

/-- The induction step of every register invariant: what holds of the reset zeros and of every decode, and is kept where `out_valid`
falls, holds after the first RESET from step to step. -/
theorem step_keeps_regs {P : Regs → Prop} (hzero : P Regs.zero) (hdecoded : ∀ w, P (decoded w))
    (hidle : ∀ r, P r → P (idleRegs r)) {s t : State} (hs : AfterReset s → P s.regs) (h : step s = .next t) :
    AfterReset t → P t.regs := by
  intro ht
  have clocked : ∀ r, t = clock r s → t.regs = r ∧ AfterReset s := by
    rintro r rfl
    have hs : AfterReset s := (clock_resetDone r s).symm.trans ht
    exact ⟨clock_regs r hs, hs⟩
  rcases step_next_cases h with rfl | ⟨w, he⟩ | he | ⟨-, rfl⟩
  · exact hzero
  · exact (clocked _ he).1 ▸ hdecoded w
  · obtain ⟨hregs, hreset⟩ := clocked _ he
    exact hregs ▸ hidle _ (hs hreset)
  · cases ht

/-! ### Legal registers -/

theorem fieldLegal_zero : FieldLegal Regs.zero := by
  decide

theorem regsLegal_zero : RegsLegal Regs.zero :=
  ⟨⟨by decide, fun _ => rfl⟩, by decide, fieldLegal_zero⟩

/-- Of the conditions only the last reads `out_valid`, and where it is 0 that one asks nothing. -/
theorem regsLegal_idleRegs {r : Regs} (hr : RegsLegal r) : RegsLegal (idleRegs r) := by
  obtain ⟨⟨hcode, hzeros⟩, ⟨hfree, hlvalid, hnone, -⟩, hfield⟩ := hr
  refine ⟨⟨hcode, fun he => ?_⟩, ⟨hfree, hlvalid, hnone, fun h => ?_⟩, hfield⟩
  · exact congrArg idleRegs (hzeros he)
  · exact absurd h (by decide : (0 : Bit) ≠ 1)

/-- An error report is legal (60_exceptions.md R200, R201). -/
theorem regsLegal_failRegs (w : Word) (e : HeaderError) : RegsLegal (failRegs w e) := by
  obtain ⟨-, hle, -⟩ := errCode_spec e
  have zero_ne_one : (0 : Bit) ≠ 1 := by decide
  refine ⟨⟨hle, fun _ => rfl⟩, ⟨?_, ?_, ?_, ?_⟩, fieldLegal_zero⟩
  · exact fun h => absurd h zero_ne_one
  · exact fun h => absurd h zero_ne_one
  · exact fun _ => ⟨rfl, rfl, rfl⟩
  · exact fun _ h => absurd h (errCode_ne_zero e)

/-- The fields of a decodable word are legal in both columns on ok (30_encoding.md R76). -/
theorem fieldLegal_okColumn {w : Word} (hw : Decodable w) {h : Nat} (hh : h ∈ hzList (fVer w)) (free lvalid : Bit)
    (kbps flen plen : Nat) : FieldLegal (okColumn w free lvalid kbps h flen plen) := by
  obtain ⟨-, hver, hlayer, h15, h3⟩ := hw
  have hle := hzList_le _ _ hh
  have hhz : (BitVec.ofNat 16 h).toNat ≤ 48000 := by rw [BitVec.toNat_ofNat]; omega
  have hbands : ∀ (c : BitVec 2) (b : BitVec 5), b = BitVec.ofNat 5 (4 * (c.toNat + 1)) →
      b = 4 ∨ b = 8 ∨ b = 12 ∨ b = 16 := by decide
  refine ⟨hver, h15, h3, hhz, fun _ => hlayer, ?_⟩
  by_cases hl : fLayer w = 0b01
  · simp [okColumn, hl]
  · refine ⟨fun h => ?_, fun _ => ⟨if_neg hl, if_neg hl, hl, .inr (hbands (fMext w) _ (if_neg hl))⟩⟩
    exact absurd ((if_neg hl).symm.trans h) (by decide)

/-- A decode is legal: an error report, a free-format column, or a column with a length of the tables. -/
theorem regsLegal_decoded (w : Word) : RegsLegal (decoded w) := by
  apply decoded_induction w
  case hfail => exact regsLegal_failRegs w
  case hfree =>
    intro hw h0 h hh
    refine ⟨⟨Nat.zero_le 4, fun he => absurd rfl he⟩, ?_, fieldLegal_okColumn hw hh 1 0 0 0 0⟩
    simp [LengthLegal, okColumn, h0]
  case hindexed =>
    intro hw k hk h hh n hn
    obtain ⟨hlo, hhi⟩ := hn ▸ lengthRule_bounds _ _ k hk h hh (fPad w)
    obtain ⟨hk8, hk448⟩ := kbpsList_bounds _ _ k hk
    have hkbps : BitVec.ofNat 16 k ≠ 0 := by bv_omega
    have hflen : (BitVec.ofNat 16 n).toNat = n := by rw [BitVec.toNat_ofNat]; omega
    have hplen : (BitVec.ofNat 16 (n - 4)).toNat = n - 4 := by rw [BitVec.toNat_ofNat]; omega
    refine ⟨⟨Nat.zero_le 4, fun he => absurd rfl he⟩, ⟨?_, ?_, ?_, ?_⟩, fieldLegal_okColumn hw.1 hh 0 1 k n (n - 4)⟩
    · exact fun h => absurd h (by decide : (0 : Bit) ≠ 1)
    · exact fun _ => ⟨rfl, rfl, hkbps, hflen.symm ▸ hlo, hflen.symm ▸ hhi, by simp only [okColumn, hflen, hplen]; omega⟩
    · exact fun h => absurd h (by decide : (1 : Bit) ≠ 0)
    · exact fun _ _ => .inr rfl

/-- Settles O44: legal is a register invariant in the sense of `step_keeps_regs`. -/
theorem stepKeepsRegistersLegal : Obligations.StepKeepsRegistersLegal := by
  unfold Obligations.StepKeepsRegistersLegal
  intro s t hs h
  exact ⟨step_keeps_regs regsLegal_zero regsLegal_decoded (fun _ => regsLegal_idleRegs) hs h, step_keeps_afterReset h⟩

/-! ### Registers that track the word in `out_hdr` -/

theorem tracks_zero : Tracks Regs.zero := .inl rfl

theorem tracks_decoded (w : Word) : Tracks (decoded w) := by
  right
  rw [← decoded, decoded_outHdr]

/-- The word in `out_hdr` stands through an IDLE, and so does its decode but for `out_valid`. -/
theorem tracks_idleRegs {r : Regs} (hr : Tracks r) : Tracks (idleRegs r) := by
  rcases hr with rfl | hr
  · exact .inl rfl
  · have hidle := congrArg idleRegs hr
    exact .inr hidle

/-- Settles O45: tracking is a register invariant in the sense of `step_keeps_regs`. -/
theorem stepKeepsRegistersTracking : Obligations.StepKeepsRegistersTracking := by
  unfold Obligations.StepKeepsRegistersTracking
  intro s t hs h
  exact ⟨step_keeps_regs tracks_zero tracks_decoded (fun _ => tracks_idleRegs) hs h, step_keeps_afterReset h⟩

/-- Settles O43: the reset registers are the zeros, which both invariants allow. -/
theorem resetIsLegal : Obligations.ResetIsLegal := by
  unfold Obligations.ResetIsLegal
  exact ⟨rfl, fun _ => regsLegal_zero, fun _ => tracks_zero, rfl, rfl⟩

end Sys2Proof
end

section
/-! PROOFS of 20_memory.md: the bytes of an instruction. Unpacking bytes inverts laying them out (`decodeBytes_encodedBytes`), and
decoding inverts encoding on the well-formed instructions (`decodeEncoded_encode`), class by class of 30_encoding.md R74. -/

namespace Sys2Proof

/-! ### The class of an encoded header word -/

section Classes

variable {sync : BitVec 11} {ver : Version} {layer : Layer} {bri : BitVec 4} {sri : BitVec 2} {m : HdrRest}

theorem decodeHeader_hdrWord_badsync {v l : BitVec 2} (hsync : sync ≠ 0x7FF) :
    decodeHeader (hdrWord sync v l bri sri m) = .hdrBadsync sync v l bri sri m := by
  simp only [decodeHeader, fSync_hdrWord, fVer_hdrWord, fLayer_hdrWord, fBri_hdrWord, fSri_hdrWord, fRest_hdrWord, if_pos hsync]

theorem decodeHeader_hdrWord_badlayer :
    decodeHeader (hdrWord 0x7FF (versionCode ver) 0b00 bri sri m) = .hdrBadlayer ver bri sri m := by
  simp [decodeHeader, layerOf]

/-- With the sync field and the layer valid, the conditions of the third and later classes decide. -/
theorem decodeHeader_hdrWord :
    decodeHeader (hdrWord 0x7FF (versionCode ver) (layerCode layer) bri sri m) =
      if bri = 15 then .hdrBadbitrate ver layer sri m
      else if ver = .reserved then .hdrBadsrResver layer bri sri m
      else if sri = 3 then .hdrBadsrIdx3 ver layer bri m
      else if bri = 0 then .hdrFreefmt ver layer sri m
      else indexedClass ver layer bri sri m := by
  simp [decodeHeader]

theorem decodeHeader_hdrWord_indexed (hver : ver ≠ .reserved) (hidx : indexedOk bri sri = true) :
    decodeHeader (hdrWord 0x7FF (versionCode ver) (layerCode layer) bri sri m) = indexedClass ver layer bri sri m := by
  obtain ⟨⟨h0, h15⟩, h3⟩ : (bri ≠ 0 ∧ bri ≠ 15) ∧ sri ≠ 3 := by simpa [indexedOk] using hidx
  rw [decodeHeader_hdrWord, if_neg h15, if_neg hver, if_neg h3, if_neg h0]

end Classes

/-- Decoding inverts encoding on the well-formed instructions (30_encoding.md R74, 40_interface_ops.md R100). -/
theorem decodeEncoded_encode {i : Instr} (hi : WellFormed i) : decodeEncoded (encode i) = i := by
  cases i with
  | reset => rfl
  | decode w => rfl
  | idle => rfl
  | hdrBadsync sync v l bri sri m =>
    have hsync : sync ≠ 0x7FF := by simpa [WellFormed, wellFormed] using hi
    exact decodeHeader_hdrWord_badsync hsync
  | hdrBadlayer ver bri sri m => exact decodeHeader_hdrWord_badlayer
  | hdrBadbitrate ver layer sri m => exact decodeHeader_hdrWord.trans (if_pos rfl)
  | hdrBadsrResver layer bri sri m =>
    have h15 : bri ≠ 15 := by simpa [WellFormed, wellFormed] using hi
    exact (decodeHeader_hdrWord (ver := .reserved)).trans (by rw [if_neg h15, if_pos rfl])
  | hdrBadsrIdx3 ver layer bri m =>
    obtain ⟨hver, h15⟩ : ver ≠ .reserved ∧ bri ≠ 15 := by simpa [WellFormed, wellFormed] using hi
    exact decodeHeader_hdrWord.trans (by rw [if_neg h15, if_neg hver, if_pos rfl])
  | hdrFreefmt ver layer sri m =>
    obtain ⟨hver, h3⟩ : ver ≠ .reserved ∧ sri ≠ 3 := by simpa [WellFormed, wellFormed] using hi
    exact decodeHeader_hdrWord.trans (by rw [if_neg (by decide), if_neg hver, if_neg h3, if_pos rfl])
  | hdrM1L1 => exact decodeHeader_hdrWord_indexed (ver := .mpeg1) (layer := .layerI) (by decide) hi
  | hdrM1L2 => exact decodeHeader_hdrWord_indexed (ver := .mpeg1) (layer := .layerII) (by decide) hi
  | hdrM1L3 => exact decodeHeader_hdrWord_indexed (ver := .mpeg1) (layer := .layerIII) (by decide) hi
  | hdrM2L1 => exact decodeHeader_hdrWord_indexed (ver := .mpeg2) (layer := .layerI) (by decide) hi
  | hdrM2L2 => exact decodeHeader_hdrWord_indexed (ver := .mpeg2) (layer := .layerII) (by decide) hi
  | hdrM2L3 => exact decodeHeader_hdrWord_indexed (ver := .mpeg2) (layer := .layerIII) (by decide) hi
  | hdrM25L1 => exact decodeHeader_hdrWord_indexed (ver := .mpeg25) (layer := .layerI) (by decide) hi
  | hdrM25L2 => exact decodeHeader_hdrWord_indexed (ver := .mpeg25) (layer := .layerII) (by decide) hi
  | hdrM25L3 => exact decodeHeader_hdrWord_indexed (ver := .mpeg25) (layer := .layerIII) (by decide) hi

/-! ### Bytes -/

/-- The byte of a `cmd` operation holds the vector in bits 1:0 and zeros above (log 16). -/
theorem vectorByte_fields (v : BitVec 2) :
    (v.setWidth 8).extractLsb' 2 6 = 0 ∧ (v.setWidth 8).extractLsb' 0 2 = v := by
  revert v; decide

/-- Unpacking the bytes of an encoded operation inverts laying them out, whatever follows (20_memory.md R52). -/
theorem decodeBytes_encodedBytes (e : Encoded) (rest : List Byte) :
    decodeBytes (formatOf e) (encodedBytes e ++ rest) = .ok (decodeEncoded e, rest) := by
  cases e with
  | cmd vector inHdr =>
    obtain ⟨hzero, hvector⟩ := vectorByte_fields vector
    simp only [formatOf, encodedBytes, wordBytes, List.cons_append, List.nil_append, decodeBytes, hzero, hvector,
      packWord_bytes, if_true]
  | hdr32 w =>
    simp only [formatOf, encodedBytes, wordBytes, List.cons_append, List.nil_append, decodeBytes, packWord_bytes]

theorem decodeBytes_hdr32_of_short {bs : List Byte} (h : bs.length < 4) : decodeBytes .hdr32 bs = .error .truncated := by
  match bs, h with
  | [], _ | [_], _ | [_, _], _ | [_, _, _], _ => rfl

theorem decodeBytes_cmd_of_short {bs : List Byte} (h : bs.length < 5) : decodeBytes .cmd bs = .error .truncated := by
  match bs, h with
  | [], _ | [_], _ | [_, _], _ | [_, _, _], _ | [_, _, _, _], _ => rfl

/-- Settles O4: the bytes give back the encoded operation, which decodes to the instruction. -/
theorem bytesDecodeAndShortBytesAreRejected : Obligations.BytesDecodeAndShortBytesAreRejected := by
  unfold Obligations.BytesDecodeAndShortBytesAreRejected
  refine ⟨fun i rest hi => ?_, fun _ => decodeBytes_hdr32_of_short, fun _ => decodeBytes_cmd_of_short⟩
  rw [encodeBytes, decodeBytes_encodedBytes, decodeEncoded_encode hi]

end Sys2Proof
end

section
/-! PROOFS of 30_encoding.md: the class map. Each word is put together again from the fields its class has
(`hdrWord_of_noLayer`, `hdrWord_of_layerCode`); on these words the class map, the encoding and the step-by-step decode are compared
branch by branch. A header class is then the DECODE cycle of its word, which settles the statements about single classes. -/

namespace Sys2Proof

open Machine Claims

/-! ### The words by sync field and layer -/

/-- A word with the sync field and the code of a layer, put together from its fields. -/
theorem hdrWord_of_layerCode {w : Word} {l : Layer} (hsync : fSync w = 0x7FF) (hl : fLayer w = layerCode l) :
    hdrWord 0x7FF (versionCode (versionOf (fVer w))) (layerCode l) (fBri w) (fSri w) (fRest w) = w := by
  rw [versionCode_versionOf, ← hsync, ← hl, hdrWord_fields]

/-- A word with the sync field and no layer, put together from its fields. -/
theorem hdrWord_of_noLayer {w : Word} (hsync : fSync w = 0x7FF) (hl : fLayer w = 0b00) :
    hdrWord 0x7FF (versionCode (versionOf (fVer w))) 0b00 (fBri w) (fSri w) (fRest w) = w := by
  rw [versionCode_versionOf, ← hsync, ← hl, hdrWord_fields]

/-! ### The class of a word -/

theorem decodeHeader_of_noLayer {w : Word} (hsync : fSync w = 0x7FF) (hl : fLayer w = 0b00) :
    decodeHeader w = .hdrBadlayer (versionOf (fVer w)) (fBri w) (fSri w) (fRest w) := by
  rw [← decodeHeader_hdrWord_badlayer, hdrWord_of_noLayer hsync hl]

/-- With the sync field and a layer the conditions of the third and later classes decide (30_encoding.md R74). -/
theorem decodeHeader_of_layerCode {w : Word} {l : Layer} (hsync : fSync w = 0x7FF) (hl : fLayer w = layerCode l) :
    decodeHeader w =
      if fBri w = 15 then .hdrBadbitrate (versionOf (fVer w)) l (fSri w) (fRest w)
      else if versionOf (fVer w) = .reserved then .hdrBadsrResver l (fBri w) (fSri w) (fRest w)
      else if fSri w = 3 then .hdrBadsrIdx3 (versionOf (fVer w)) l (fBri w) (fRest w)
      else if fBri w = 0 then .hdrFreefmt (versionOf (fVer w)) l (fSri w) (fRest w)
      else indexedClass (versionOf (fVer w)) l (fBri w) (fSri w) (fRest w) := by
  rw [← decodeHeader_hdrWord, hdrWord_of_layerCode hsync hl]

theorem indexedOk_iff {bri : BitVec 4} {sri : BitVec 2} :
    indexedOk bri sri = true ↔ (bri ≠ 0 ∧ bri ≠ 15) ∧ sri ≠ 3 := by
  simp [indexedOk]

section Classes

variable (ver : Version) (layer : Layer) (bri : BitVec 4) (sri : BitVec 2) (m : HdrRest)

theorem encode_indexedClass :
    encode (indexedClass ver layer bri sri m) = .hdr32 (hdrWord 0x7FF (versionCode ver) (layerCode layer) bri sri m) := by
  cases ver <;> cases layer <;> rfl

theorem wellFormed_indexedClass (hver : ver ≠ .reserved) :
    wellFormed (indexedClass ver layer bri sri m) = indexedOk bri sri := by
  cases ver with
  | reserved => exact absurd rfl hver
  | _ => cases layer <;> rfl

end Classes

/-- The class map answers a member of a class, and the word is that member's encoding. -/
theorem decodeHeader_isClassOf (w : Word) : WellFormed (decodeHeader w) ∧ encode (decodeHeader w) = .hdr32 w := by
  by_cases hsync : fSync w = 0x7FF
  case neg =>
    rw [decodeHeader, if_pos hsync]
    exact ⟨bne_iff_ne.2 hsync, congrArg _ (hdrWord_fields w)⟩
  rcases hl : layerOf (fLayer w) with _ | l
  case none =>
    have hcode := layerOf_eq_none.1 hl
    rw [decodeHeader_of_noLayer hsync hcode]
    exact ⟨rfl, congrArg _ (hdrWord_of_noLayer hsync hcode)⟩
  case some =>
    have hcode := (layerCode_of_layerOf hl).symm
    have hword := hdrWord_of_layerCode hsync hcode
    rw [decodeHeader_of_layerCode hsync hcode]
    split_ifs with h15 hver h3 h0
    · exact ⟨rfl, congrArg _ (h15 ▸ hword)⟩
    · exact ⟨bne_iff_ne.2 h15, congrArg _ (hver ▸ hword)⟩
    · exact ⟨Bool.and_eq_true_iff.2 ⟨bne_iff_ne.2 hver, bne_iff_ne.2 h15⟩, congrArg _ (h3 ▸ hword)⟩
    · exact ⟨Bool.and_eq_true_iff.2 ⟨bne_iff_ne.2 hver, bne_iff_ne.2 h3⟩, congrArg _ (h0 ▸ hword)⟩
    · exact ⟨(wellFormed_indexedClass _ _ _ _ _ hver).trans (indexedOk_iff.2 ⟨⟨h0, h15⟩, h3⟩),
        (encode_indexedClass ..).trans (congrArg _ hword)⟩

/-- Settles O1, class by class in `decodeEncoded_encode`. -/
theorem decodeOfEncodeIsInstruction : Obligations.DecodeOfEncodeIsInstruction := by
  unfold Obligations.DecodeOfEncodeIsInstruction
  exact fun _ => decodeEncoded_encode

/-- Settles O2: the class exists by `decodeHeader_isClassOf`, and is the only one because decoding inverts encoding. -/
theorem everyWordHasExactlyOneClass : Obligations.EveryWordHasExactlyOneClass := by
  unfold Obligations.EveryWordHasExactlyOneClass
  intro w
  obtain ⟨hwf, henc⟩ := decodeHeader_isClassOf w
  refine ⟨hwf, henc, fun i hi he => ?_⟩
  calc
    i = decodeEncoded (encode i) := (decodeEncoded_encode hi).symm
    _ = decodeHeader w := by rw [he]; rfl

/-- Settles O3: each clause takes its branch of `decodeHeader_of_layerCode`, past the branches whose condition fails. -/
theorem classConditionsInOrder : Obligations.ClassConditionsInOrder := by
  unfold Obligations.ClassConditionsInOrder
  intro w
  refine ⟨fun hsync => if_pos hsync, decodeHeader_of_noLayer, fun l hsync hl => ?_⟩
  rw [decodeHeader_of_layerCode hsync hl]
  refine ⟨?badbitrate, ?resver, ?idx3, ?freefmt, ?indexed⟩
  case badbitrate => exact fun h15 => if_pos h15
  case resver =>
    intro h15 hver
    rw [if_neg h15, if_pos (by rw [hver]; rfl)]
  case idx3 =>
    intro h15 hver h3
    rw [if_neg h15, if_neg (versionOf_ne_reserved.2 hver), if_pos h3]
  case freefmt =>
    intro h0 hver h3
    have h15 : fBri w ≠ 15 := by rw [h0]; decide
    rw [if_neg h15, if_neg (versionOf_ne_reserved.2 hver), if_neg h3, if_pos h0]
  case indexed =>
    intro h0 h15 hver h3
    rw [if_neg h15, if_neg (versionOf_ne_reserved.2 hver), if_neg h3, if_neg h0]

/-- Settles O6, by evaluating the decoder on each listed word. -/
theorem listedWordsDecodeToTheirClass : Obligations.ListedWordsDecodeToTheirClass := by
  unfold Obligations.ListedWordsDecodeToTheirClass
  decide

/-! ### The step-by-step decode and the class map -/

/-- The edge of a DECODE that fails makes the error report, in whatever way its word is put together (60_exceptions.md R201). -/
theorem exec_decode_of_fail {w v : Word} {e : HeaderError} (h : decodeWord w = .fail e) (hv : v = w) (s : State) :
    exec (.decode w) s = .next (reportError v e s) := by
  rw [exec, execDecode, h, hv]; rfl

/-- The edge of a DECODE that succeeds writes the record's registers, in whatever way its word is put together
(40_interface_ops.md R101). -/
theorem exec_decode_of_ok {w v : Word} {H : Header} (h : decodeWord w = .ok H) (hv : v = w) (s : State) :
    exec (.decode w) s = .next (reportOk v H s) := by
  rw [exec, execDecode, h, hv]; rfl

section HeaderCycles

variable (ver : Version) (layer : Layer) (bri : BitVec 4) (sri : BitVec 2) (m : HdrRest) {t : SrTable}

theorem exec_hdrFreefmt_of_srSel (ht : srSel ver = some t) (s : State) :
    exec (.hdrFreefmt ver layer sri m) s =
      .next (reportOk (hdrWord 0x7FF (versionCode ver) (layerCode layer) 0 sri m)
        (headerOf ver layer .freeFormat (srLut t sri) m) s) := by
  simp only [exec, execHdrFreefmt, ht]

/-- Each indexed class names the tables that its version and layer select (42_lut.md R160, R167). -/
theorem exec_indexedClass_of_srSel (ht : srSel ver = some t) (s : State) :
    exec (indexedClass ver layer bri sri m) s =
      .next (reportOk (hdrWord 0x7FF (versionCode ver) (layerCode layer) bri sri m)
        (headerOf ver layer (.indexed (brLut (brSel ver layer) bri)) (srLut t sri) m) s) := by
  cases ver <;> cases ht <;> cases layer <;> rfl

end HeaderCycles

/-- Settles O9, by the answers of decode(W): each one's conditions select the class that reports it. -/
theorem decodeIsItsHeaderClass : Obligations.DecodeIsItsHeaderClass := by
  unfold Obligations.DecodeIsItsHeaderClass
  intro w s
  rcases decodeWord_cases w with ⟨hsync, hw⟩ | ⟨hsync, hl, hw⟩ | ⟨l, hsync, hl, h15, hw⟩ | ⟨l, hsync, hl, h15, hsr, hw⟩ |
    ⟨l, t, hsync, hl, h15, ht, hver, h3, hw⟩
  · rw [decodeHeader, if_pos hsync]
    exact exec_decode_of_fail hw (hdrWord_fields w) s
  · have hcode := layerOf_eq_none.1 hl
    rw [decodeHeader_of_noLayer hsync hcode]
    exact exec_decode_of_fail hw (hdrWord_of_noLayer hsync hcode) s
  all_goals
    have hcode := (layerCode_of_layerOf hl).symm
    have hword := hdrWord_of_layerCode hsync hcode
    rw [decodeHeader_of_layerCode hsync hcode]
  · rw [if_pos h15]
    exact exec_decode_of_fail hw (h15 ▸ hword) s
  · rw [if_neg h15]
    by_cases hver : versionOf (fVer w) = .reserved
    · rw [hver] at hword
      rw [if_pos hver]
      exact exec_decode_of_fail hw hword s
    · have h3 := hsr.resolve_left hver
      rw [if_neg hver, if_pos h3]
      exact exec_decode_of_fail hw (h3 ▸ hword) s
  · rw [if_neg h15, if_neg hver, if_neg h3]
    by_cases h0 : fBri w = 0
    · rw [bitrateOf, if_pos h0] at hw
      rw [if_pos h0, exec_hdrFreefmt_of_srSel _ _ _ _ ht]
      exact exec_decode_of_ok hw (h0 ▸ hword) s
    · rw [bitrateOf, if_neg h0] at hw
      rw [if_neg h0, exec_indexedClass_of_srSel _ _ _ _ _ ht]
      exact exec_decode_of_ok hw hword s

/-! ### The statements about single classes -/

section ClassRows

variable (layer : Layer) {ver : Version} {bri : BitVec 4} {sri : BitVec 2} (m : HdrRest)

theorem decodable_hdrWord (hver : ver ≠ .reserved) (h15 : bri ≠ 15) (h3 : sri ≠ 3) :
    Decodable (hdrWord 0x7FF (versionCode ver) (layerCode layer) bri sri m) := by
  have hvercode : versionCode ver ≠ 0b01 := versionOf_ne_reserved.1 (by rwa [versionOf_versionCode])
  have hlayercode : layerCode layer ≠ 0b00 := by cases layer <;> decide
  rw [Decodable, fSync_hdrWord, fVer_hdrWord, fLayer_hdrWord, fBri_hdrWord, fSri_hdrWord]
  exact ⟨rfl, hvercode, hlayercode, h15, h3⟩

/-- A member of an indexed class is the DECODE cycle of its word, which has a length. -/
theorem indexedClass_outcome (hver : ver ≠ .reserved) {s : State} (hs : AfterReset s) (h0 : bri ≠ 0) (h15 : bri ≠ 15)
    (h3 : sri ≠ 3) : IndexedOutcome (hdrWord 0x7FF (versionCode ver) (layerCode layer) bri sri m) s
      (exec (indexedClass ver layer bri sri m) s) := by
  rw [← decodeHeader_hdrWord_indexed hver (indexedOk_iff.2 ⟨⟨h0, h15⟩, h3⟩), ← decodeIsItsHeaderClass]
  exact indexedDecodeWritesEveryRegister _ s hs ⟨decodable_hdrWord layer m hver h15 h3, by rwa [fBri_hdrWord]⟩

end ClassRows

/-- Settles O24: a member of HDR_FREEFMT is the DECODE cycle of its word, which is decodable with bitrate index 0. -/
theorem freeFormatClassCompletes : Obligations.FreeFormatClassCompletes := by
  unfold Obligations.FreeFormatClassCompletes
  intro ver layer sri m s hs hver h3
  have hclass : decodeHeader (hdrWord 0x7FF (versionCode ver) (layerCode layer) 0 sri m) = .hdrFreefmt ver layer sri m := by
    rw [decodeHeader_hdrWord, if_neg (by decide), if_neg hver, if_neg h3, if_pos rfl]
  rw [← hclass, ← decodeIsItsHeaderClass]
  exact freeFormatDecodeWritesEveryRegister _ s hs (decodable_hdrWord layer m hver (by decide) h3) (fBri_hdrWord ..)

/-- Settles O25: the three classes are the indexed classes of Mpeg1. -/
theorem mpeg1ClassesComplete : Obligations.Mpeg1ClassesComplete := by
  unfold Obligations.Mpeg1ClassesComplete
  intro bri sri m s hs h0 h15 h3
  have row (l : Layer) := indexedClass_outcome l m (ver := .mpeg1) (by decide) hs h0 h15 h3
  exact ⟨row .layerI, row .layerII, row .layerIII⟩

/-- Settles O26: the three classes are the indexed classes of Mpeg2. -/
theorem mpeg2ClassesComplete : Obligations.Mpeg2ClassesComplete := by
  unfold Obligations.Mpeg2ClassesComplete
  intro bri sri m s hs h0 h15 h3
  have row (l : Layer) := indexedClass_outcome l m (ver := .mpeg2) (by decide) hs h0 h15 h3
  exact ⟨row .layerI, row .layerII, row .layerIII⟩

/-- Settles O27: the three classes are the indexed classes of Mpeg2_5. -/
theorem mpeg25ClassesComplete : Obligations.Mpeg25ClassesComplete := by
  unfold Obligations.Mpeg25ClassesComplete
  intro bri sri m s hs h0 h15 h3
  have row (l : Layer) := indexedClass_outcome l m (ver := .mpeg25) (by decide) hs h0 h15 h3
  exact ⟨row .layerI, row .layerII, row .layerIII⟩

/-- After the first RESET the error report is the column 'on fail' of 10_state.md R28, with the kind's code. -/
theorem reportError_of_afterReset (w : Word) (e : HeaderError) {s : State} (hs : AfterReset s) :
    reportError w e s = edgeTo s (errorRegs w (errCode e)) :=
  clock_of_reset _ hs

/-- Settles O23: each of the five classes makes the error report of its kind. -/
theorem failingClassesReportTheirCode : Obligations.FailingClassesReportTheirCode := by
  unfold Obligations.FailingClassesReportTheirCode
  refine ⟨?badsync, ?badlayer, ?badbitrate, ?resver, ?idx3⟩
  case badsync => exact fun _ _ _ _ _ _ _ hs _ => congrArg _ (reportError_of_afterReset _ .badSync hs)
  case badlayer => exact fun _ _ _ _ _ hs => congrArg _ (reportError_of_afterReset _ .badLayer hs)
  case badbitrate => exact fun _ _ _ _ _ hs => congrArg _ (reportError_of_afterReset _ .badBitrate hs)
  case resver => exact fun _ _ _ _ _ hs _ => congrArg _ (reportError_of_afterReset _ .badSamplingRate hs)
  case idx3 => exact fun _ _ _ _ _ hs _ _ => congrArg _ (reportError_of_afterReset _ .badSamplingRate hs)

end Sys2Proof
end

section
/-! PROOFS of 40_interface_ops.md: the cycles. A clean edge is `exec` of the sampled operation (`step_of_edge`); the ports that carry
table bits sample what the decoder reads from them (`decodeTableWord_some`); and the error code of a decode is that of its earliest
failing step (`decoded_outErr`). -/

namespace Sys2Proof

open Machine Claims

/-! ### The selected cycle -/

/-- Every instruction answers a next state. -/
theorem exec_completes (i : Instr) (s : State) : ∃ t, exec i s = .next t := by
  rcases exec_cases i s with ⟨-, he⟩ | ⟨-, r, he⟩
  · exact ⟨_, he⟩
  · exact ⟨_, he⟩

/-- Settles O7: the step is `exec` of the sampled operation, in each of the three cases of the ports. -/
theorem stepPerformsTheSelectedCycle : Obligations.StepPerformsTheSelectedCycle := by
  unfold Obligations.StepPerformsTheSelectedCycle
  intro s p hp
  have hstep := step_of_edge hp
  have hnext : ∃ t, step s = .next t := hstep ▸ exec_completes (sampled p) s
  rcases sampled_cases p with ⟨hr, hop⟩ | ⟨hr, hv, hop⟩ | ⟨hr, hv, hop⟩ <;> rw [hop] at hstep
  · exact ⟨fun _ => hstep, by simp [hr], by simp [hr], hnext⟩
  · exact ⟨by simp [hr], fun _ _ => hstep, by simp [hv], hnext⟩
  · exact ⟨by simp [hr], by simp [hv], fun _ _ => hstep, hnext⟩

/-- Settles O15: an IDLE writes `idleRegs`, and rst = 0 with in_valid = 0 selects it whatever the word on in_hdr. -/
theorem idleLowersValidAndKeepsTheRest : Obligations.IdleLowersValidAndKeepsTheRest := by
  unfold Obligations.IdleLowersValidAndKeepsTheRest
  intro s hs
  have hidle := exec_idle_of_afterReset hs
  refine ⟨hidle, fun w hp => ?_⟩
  have hop : sampled ⟨0, 0, w⟩ = .idle := rfl
  rw [step_of_edge hp, hop]
  exact hidle

/-! ### An operation given by its table bits (log 15) -/

/-- The ports of a `cmd` byte carry the two bits of its vector. -/
theorem vectorOfByte_bits (c : Byte) :
    (c.extractLsb' 0 2).extractLsb' 1 1 = c.extractLsb' 1 1 ∧ (c.extractLsb' 0 2).extractLsb' 0 1 = c.extractLsb' 0 1 := by
  revert c; decide

/-- Of a `cmd` row the decoder reads the operation that the row's ports sample. -/
theorem decodeTableWord_cmd {nbits w : Nat} {i : Instr} (hn : nbits ≤ 8) (h : decodeTableWord nbits w = some i) :
    ∃ p, tablePorts nbits w = some p ∧ i = sampled p := by
  obtain ⟨hrst, hvalid⟩ := vectorOfByte_bits (BitVec.ofNat 8 w)
  have hzeros : packWord 0 0 0 0 = 0 := rfl
  refine ⟨_, if_pos hn, ?_⟩
  by_cases hvector : (BitVec.ofNat 8 w).extractLsb' 2 6 = 0
  · simp only [decodeTableWord, tableBytes, if_pos hn, decodeBytes, if_pos hvector, decodeEncoded, hrst, hvalid, hzeros] at h
    exact (Option.some.inj h).symm
  · simp only [decodeTableWord, tableBytes, if_pos hn, decodeBytes, if_neg hvector] at h
    cases h

/-- Of 32 table bits the decoder reads the class of the header word. -/
theorem decodeTableWord_hdr32 (w : Nat) : decodeTableWord 32 w = some (decodeHeader (BitVec.ofNat 32 w)) := by
  have hbytes : decodeBytes .hdr32 (wordBytes (BitVec.ofNat 32 w)) = .ok (decodeHeader (BitVec.ofNat 32 w), []) :=
    decodeBytes_encodedBytes (.hdr32 (BitVec.ofNat 32 w)) []
  have htable : tableBytes 32 w = some (.hdr32, wordBytes (BitVec.ofNat 32 w)) := rfl
  simp only [decodeTableWord, htable, hbytes]

/-- Where the decoder reads an instruction from table bits, the ports that carry them sample that instruction (a `cmd` row), or the
DECODE of the word whose class it is (a `hdr32` row). -/
theorem decodeTableWord_some {nbits w : Nat} {i : Instr} (h : decodeTableWord nbits w = some i) :
    ∃ p, tablePorts nbits w = some p ∧ (i = sampled p ∨ ∃ v, p = wordPorts v ∧ i = decodeHeader v) := by
  by_cases hcmd : nbits ≤ 8
  · obtain ⟨p, hports, hi⟩ := decodeTableWord_cmd hcmd h
    exact ⟨p, hports, .inl hi⟩
  · by_cases hword : nbits = 32
    · subst hword
      rw [decodeTableWord_hdr32] at h
      exact ⟨_, rfl, .inr ⟨_, rfl, (Option.some.inj h).symm⟩⟩
    · simp [decodeTableWord, tableBytes, hcmd, hword] at h

/-- Settles O8: the placed ports sample the instruction read, or the DECODE of its word, which is `exec` of the class (O9). -/
theorem stepRunsTheFetchedInstruction : Obligations.StepRunsTheFetchedInstruction := by
  unfold Obligations.StepRunsTheFetchedInstruction
  intro s nbits w i h
  obtain ⟨p, hports, hi⟩ := decodeTableWord_some h
  have hplaced : s.withFetchWord nbits w = withPorts s p := by rw [State.withFetchWord, hports]
  rw [hplaced, step_of_edge (nextEvent_cons (withPorts_feed s p))]
  rcases hi with rfl | ⟨v, rfl, rfl⟩
  · rfl
  · rw [sampled_wordPorts, decodeIsItsHeaderClass]

/-! ### DECODEs on consecutive edges -/

/-- The error code of a decode is that of the earliest failing step, 0 if none fails (60_exceptions.md R200, R206). -/
theorem decoded_outErr (w : Word) : (decoded w).outErr = earliestError w := by
  unfold decoded earliestError
  rcases decodeWord_cases w with ⟨hsync, hw⟩ | ⟨hsync, hl, hw⟩ | ⟨l, hsync, hl, h15, hw⟩ | ⟨l, hsync, hl, h15, hsr, hw⟩ |
    ⟨l, t, hsync, hl, h15, -, hver, h3, hw⟩ <;> rw [hw]
  · rw [if_pos hsync]; rfl
  · rw [if_neg (not_not.2 hsync), if_pos (layerOf_eq_none.1 hl)]; rfl
  all_goals
    have hcode : fLayer w ≠ 0b00 := fun h => by rw [layerOf_eq_none.2 h] at hl; cases hl
    rw [if_neg (not_not.2 hsync), if_neg hcode]
  · rw [if_pos h15]; rfl
  · have hcode : fVer w = 0b01 ∨ fSri w = 3 := hsr.imp_left fun h => by
      rw [← versionCode_versionOf (fVer w), h]; rfl
    rw [if_neg h15, if_pos hcode]; rfl
  · rw [if_neg h15, if_neg (not_or.2 ⟨versionOf_ne_reserved.1 hver, h3⟩)]; rfl

/-- A run goes on from the state its first step answers. -/
theorem run_succ_of_step {s t : State} (h : step s = .next t) (k : Nat) :
    Host.Core.run core (k + 1) s = Host.Core.run core k t := by
  have hcore : core.step s = .next t := h
  simp only [Host.Core.run, hcore]

/-- After the first RESET an edge that presents a word leaves the decode of it. -/
theorem step_wordPorts_of_afterReset {s : State} {w : Word} {es : List Event} (hs : AfterReset s)
    (hfeed : s.feed = .edge (wordPorts w) :: es) : step s = .next (edgeTo s (decoded w)) := by
  rw [step_of_edge (nextEvent_cons hfeed), sampled_wordPorts, exec_decode_of_afterReset w hs]

/-- Settles O22: each edge writes the decode of its own word, and the second writes every register, so nothing of the first stays. -/
theorem backToBackDecodes : Obligations.BackToBackDecodes := by
  unfold Obligations.BackToBackDecodes
  intro s v w es hs hfeed
  have hfirst := step_wordPorts_of_afterReset hs hfeed
  have hfeed' : (edgeTo s (decoded v)).feed = .edge (wordPorts w) :: es := congrArg List.tail hfeed
  have hsecond := step_wordPorts_of_afterReset (s := edgeTo s (decoded v)) hs hfeed'
  refine ⟨_, edgeTo (edgeTo s (decoded v)) (decoded w), run_succ_of_step hfirst 0, rfl, decoded_outHdr v, decoded_outErr v, ?_, ?_⟩
  · rw [run_succ_of_step hfirst, run_succ_of_step hsecond]; rfl
  · rw [exec_decode_of_afterReset w (s := { s with feed := .edge (wordPorts w) :: es }) hs]
    simp only [edgeTo, hfeed, List.tail_cons]

end Sys2Proof
end

section
/-! PROOFS of 41_header_decode.md: the success set, and what the field registers say of a decoded word. Every decodable word leaves
the column 'on ok' of 10_state.md R28 (`exec_decode_of_decodable`), where the field registers do not depend on the bitrate, the
sampling rate or the frame length. -/

namespace Sys2Proof

open Machine Claims

/-- Settles O17: a decodable word has a record, and every other word fails. -/
theorem successSet : Obligations.SuccessSet := by
  unfold Obligations.SuccessSet
  intro w
  constructor
  · rintro ⟨h, hok⟩
    by_contra hw
    obtain ⟨e, hfail⟩ := decodeWord_of_not_decodable hw
    cases hok.symm.trans hfail
  · intro hw
    obtain ⟨l, t, -, -, hok⟩ := decodeWord_of_decodable hw
    exact ⟨_, hok⟩

/-- After the first RESET a DECODE of a decodable word writes the column 'on ok' of 10_state.md R28, whatever its bitrate. -/
theorem exec_decode_of_decodable {w : Word} (hw : Decodable w) {s : State} (hs : AfterReset s) :
    ∃ free lvalid kbps hz flen plen,
      exec (.decode w) s = .next (edgeTo s (okColumn w free lvalid kbps hz flen plen)) := by
  obtain ⟨l, t, hl, -, hok⟩ := decodeWord_of_decodable hw
  exact ⟨_, _, _, _, _, _, by rw [exec_decode_of_afterReset w hs, decoded, hok, resultRegs, okRegs_headerOf hl]⟩

/-- The greatest band limit is 16, so `out_bands` holds each one whole (41_header_decode.md R134). -/
theorem bandLimit_toNat (c : BitVec 2) : (BitVec.ofNat 5 (4 * (c.toNat + 1))).toNat = 4 * (c.toNat + 1) := by
  have hc := c.isLt
  rw [BitVec.toNat_ofNat, Nat.mod_eq_of_lt (by omega)]

/-- Settles O28: in the column 'on ok' the layer code alone chooses between the two variants. -/
theorem modeExtensionFollowsTheLayer : Obligations.ModeExtensionFollowsTheLayer := by
  unfold Obligations.ModeExtensionFollowsTheLayer
  intro w s hs hw
  obtain ⟨_, _, _, _, _, _, hexec⟩ := exec_decode_of_decodable hw hs
  refine ⟨_, hexec, rfl, ?_⟩
  by_cases hl : fLayer w = 0b01
  · rw [if_pos hl]
    exact ⟨if_pos hl, if_pos hl, if_pos hl, if_pos hl⟩
  · rw [if_neg hl]
    exact ⟨if_neg hl, (congrArg BitVec.toNat (if_neg hl)).trans (bandLimit_toNat (fMext w)), if_neg hl, if_neg hl⟩

/-- A word with the sync field is the sum of the sync bits and its other fields, each at its place (30_encoding.md R71). -/
theorem toNat_of_sync {w : Word} (hsync : fSync w = 0x7FF) :
    w.toNat = 0xFFE00000 + (fVer w).toNat * 2 ^ 19 + (fLayer w).toNat * 2 ^ 17 + (fProt w).toNat * 2 ^ 16 +
      (fBri w).toNat * 2 ^ 12 + (fSri w).toNat * 2 ^ 10 + (fPad w).toNat * 2 ^ 9 + (fPriv w).toNat * 2 ^ 8 +
      (fMode w).toNat * 2 ^ 6 + (fMext w).toNat * 2 ^ 4 + (fCopy w).toNat * 2 ^ 3 + (fOrig w).toNat * 2 ^ 2 +
      (fEmph w).toNat := by
  calc
    w.toNat = (hdrWord 0x7FF (fVer w) (fLayer w) (fBri w) (fSri w) (fRest w)).toNat := by rw [← hsync, hdrWord_fields]
    _ = _ := hdrWord_toNat ..

/-- Settles O30: in the column 'on ok' each of these registers is its field, and the fields add up to the word. -/
theorem registersRebuildTheWord : Obligations.RegistersRebuildTheWord := by
  unfold Obligations.RegistersRebuildTheWord
  intro w s hs hw
  obtain ⟨_, _, _, _, _, _, hexec⟩ := exec_decode_of_decodable hw hs
  obtain ⟨hsync, -⟩ := hw
  exact ⟨_, hexec, toNat_of_sync hsync⟩

end Sys2Proof
end

section
/-! PROOFS of 42_lut.md: the bitrate tables. The cells of each table are in increasing order, and an index from 1 to 14 reads the
cell at its place (`brLut_cell`). -/

namespace Sys2Proof

open Machine

/-- 42_lut.md R172, over the tables as they are written (R161 to R165). -/
theorem brCells_pairwise_lt (t : BrTable) : (brCells t).Pairwise (· < ·) := by
  cases t <;> decide

/-- Settles O31: a larger index reads a later cell, and the cells increase. -/
theorem bitrateTablesIncrease : Obligations.BitrateTablesIncrease := by
  unfold Obligations.BitrateTablesIncrease
  intro t i j hi hij hj
  obtain ⟨hi14, hcell_i⟩ := List.getElem?_eq_some_iff.mp (brLut_cell t i hi (by bv_omega))
  obtain ⟨hj14, hcell_j⟩ := List.getElem?_eq_some_iff.mp (brLut_cell t j (by bv_omega) hj)
  have hplace : i.toNat - 1 < j.toNat - 1 := by bv_omega
  rw [← hcell_i, ← hcell_j]
  exact List.pairwise_iff_getElem.mp (brCells_pairwise_lt t) _ _ hi14 hj14 hplace

end Sys2Proof
end

section
/-! PROOFS of 43_frame_length.md: the frame length. The model's length is the one expression of R185 (`frameLength_eq_lengthRule`), which
is monotone in the bitrate and antitone in the sampling rate. The length registers hold it without loss, since no length the tables give
is above 2881 (`lengthRule_bounds`), and they depend on the word through the fields of R191 alone (`decoded_cells_eq`). -/

namespace Sys2Proof

open Machine Claims

/-! ### The expression of R185 -/

theorem layerCode_eq_layerI {l : Layer} : layerCode l = 0b11 ↔ l = .layerI := by
  cases l <;> decide

theorem lengthRule_le_of_kbps_le (layer : BitVec 2) {k k' : Nat} (hk : k ≤ k') (h : Nat) (pad : Bit) :
    lengthRule layer k h pad ≤ lengthRule layer k' h pad := by
  unfold lengthRule
  gcongr

theorem lengthRule_le_of_hz_le (layer : BitVec 2) (k : Nat) {h h' : Nat} (hpos : 0 < h) (hh : h ≤ h') (pad : Bit) :
    lengthRule layer k h' pad ≤ lengthRule layer k h pad := by
  unfold lengthRule
  gcongr

/-- The padding bit adds one slot (00_scope.md R16, 43_frame_length.md R184). -/
theorem lengthRule_pad_one (layer : BitVec 2) (k h : Nat) :
    lengthRule layer k h 1 = lengthRule layer k h 0 + (if layer = 0b11 then 4 else 1) := rfl

/-- Sixteen bits hold every length the tables give. -/
theorem toNat_ofNat_lengthRule {ver layer : BitVec 2} {k h : Nat} (hk : k ∈ kbpsList ver layer) (hh : h ∈ hzList ver)
    (pad : Bit) : (BitVec.ofNat 16 (lengthRule layer k h pad)).toNat = lengthRule layer k h pad := by
  obtain ⟨-, hhi⟩ := lengthRule_bounds ver layer k hk h hh pad
  rw [BitVec.toNat_ofNat, Nat.mod_eq_of_lt (by omega)]

/-- Settles O33: by the two kinds of bitrate; an indexed one has the expression of R185. -/
theorem frameSizeOfRecord : Obligations.FrameSizeOfRecord := by
  unfold Obligations.FrameSizeOfRecord
  intro h
  cases hb : h.bitrate with
  | freeFormat => simp only [frameSize, hb]
  | indexed k => simp only [frameSize, hb, frameLength_eq_lengthRule, lengthRule, layerCode_eq_layerI]

/-- Settles O34: the length is `lengthRule`, a quotient whose numerator grows with kbps and whose divisor is the sampling rate. -/
theorem frameLengthIsMonotone : Obligations.FrameLengthIsMonotone := by
  unfold Obligations.FrameLengthIsMonotone
  simp only [frameLength_eq_lengthRule]
  constructor
  · intro l pad k k' hz hk
    exact lengthRule_le_of_kbps_le _ hk _ pad
  · intro l pad k hz hz' h0 hle
    have hpos : 0 < hz.toNat := by bv_omega
    exact lengthRule_le_of_hz_le _ _ hpos hle pad

/-! ### The length registers -/

/-- The length registers of a word with an indexed bitrate, as numbers (43_frame_length.md R185, R187). -/
theorem lengths_of_hasLength {w : Word} (hw : HasLength w) :
    (decoded w).outLvalid = 1 ∧
    (decoded w).outFlen.toNat = lengthRule (fLayer w) (decoded w).outKbps.toNat (decoded w).outHz.toNat (fPad w) ∧
    32 ≤ (decoded w).outFlen.toNat ∧ (decoded w).outFlen.toNat ≤ 2881 ∧
    (decoded w).outPlen.toNat + 4 = (decoded w).outFlen.toNat := by
  obtain ⟨k, h, hcellk, hcellh, hregs⟩ := decoded_of_hasLength hw
  have hk := List.mem_of_getElem? hcellk
  have hh := List.mem_of_getElem? hcellh
  have hlvalid : (decoded w).outLvalid = 1 := by rw [hregs]; rfl
  have hkbps : (decoded w).outKbps.toNat = k := by
    obtain ⟨-, hle⟩ := kbpsList_bounds _ _ k hk
    rw [hregs, okColumn, BitVec.toNat_ofNat, Nat.mod_eq_of_lt (by omega)]
  have hhz : (decoded w).outHz.toNat = h := by
    have hle := hzList_le _ h hh
    rw [hregs, okColumn, BitVec.toNat_ofNat, Nat.mod_eq_of_lt (by omega)]
  have hflen : (decoded w).outFlen.toNat = lengthRule (fLayer w) k h (fPad w) := by
    rw [hregs]; exact toNat_ofNat_lengthRule hk hh (fPad w)
  obtain ⟨-, ⟨-, hlegal, -⟩, -⟩ := regsLegal_decoded w
  obtain ⟨-, -, -, hlo, hhi, hplen⟩ := hlegal hlvalid
  exact ⟨hlvalid, by rw [hflen, hkbps, hhz], hlo, hhi, hplen⟩

/-- Settles O32: the expression with 384 or 1152 samples is `lengthRule`, and the payload leaves out the 4 header bytes. -/
theorem frameLengthFormula : Obligations.FrameLengthFormula := by
  unfold Obligations.FrameLengthFormula
  intro w s hs hw
  obtain ⟨hlvalid, hflen, -, -, hplen⟩ := lengths_of_hasLength hw
  exact ⟨_, exec_decode_of_afterReset w hs, hlvalid, hflen, Nat.eq_sub_of_add_eq hplen⟩

/-- Settles O35: the bounds are those of the tables, and `0xFFFF1400` and `0xFFE3EA00` reach them. -/
theorem frameLengthBounds : Obligations.FrameLengthBounds := by
  unfold Obligations.FrameLengthBounds
  refine ⟨fun w s hs hw => ?_, by decide, by decide⟩
  obtain ⟨-, -, hlo, hhi, hplen⟩ := lengths_of_hasLength hw
  have hpayload : 28 ≤ (decoded w).outPlen.toNat := by omega
  exact ⟨_, exec_decode_of_afterReset w hs, hlo, hhi, hpayload, hplen⟩

/-! ### The fields that enter the length -/

/-- A word that agrees with an indexed one in sync, version, layer and the two indices is indexed too, and reads the same cells of
the tables (42_lut.md R160, R167). -/
theorem decoded_cells_eq {v w : Word} (hv : HasLength v) (hsync : fSync w = fSync v) (hver : fVer w = fVer v)
    (hlayer : fLayer w = fLayer v) (hbri : fBri w = fBri v) (hsri : fSri w = fSri v) :
    HasLength w ∧ (decoded w).outKbps = (decoded v).outKbps ∧ (decoded w).outHz = (decoded v).outHz := by
  have hw : HasLength w := by
    rw [HasLength, Decodable, hsync, hver, hlayer, hbri, hsri]
    exact hv
  obtain ⟨k, h, hk, hh, hregs⟩ := decoded_of_hasLength hv
  obtain ⟨k', h', hk', hh', hregs'⟩ := decoded_of_hasLength hw
  rw [hver, hlayer, hbri] at hk'
  rw [hver, hsri] at hh'
  obtain rfl : k = k' := Option.some.inj (hk.symm.trans hk')
  obtain rfl : h = h' := Option.some.inj (hh.symm.trans hh')
  rw [hregs, hregs']
  exact ⟨hw, rfl, rfl⟩

/-- Settles O36: the lengths are an expression of the cells, the layer and the padding bit, and the two words agree in these. -/
theorem otherFieldsDoNotEnterTheLength : Obligations.OtherFieldsDoNotEnterTheLength := by
  unfold Obligations.OtherFieldsDoNotEnterTheLength
  intro v w s hs hv hsync hver hlayer hbri hsri hpad
  obtain ⟨hw, hkbps, hhz⟩ := decoded_cells_eq hv hsync hver hlayer hbri hsri
  obtain ⟨hlvalid, hflen, -, -, hplen⟩ := lengths_of_hasLength hv
  obtain ⟨hlvalid', hflen', -, -, hplen'⟩ := lengths_of_hasLength hw
  rw [hkbps, hhz, hlayer, hpad, ← hflen] at hflen'
  refine ⟨_, _, exec_decode_of_afterReset v hs, exec_decode_of_afterReset w hs, ?_, ?_, hlvalid'.trans hlvalid.symm⟩
  · exact BitVec.eq_of_toNat_eq hflen'
  · exact BitVec.eq_of_toNat_eq (Nat.add_right_cancel (hplen'.trans (hflen'.trans hplen.symm)))

/-- Settles O37: the two words read the same cells, and in the expression of the length the padding bit adds one slot. -/
theorem paddingAddsOneSlot : Obligations.PaddingAddsOneSlot := by
  unfold Obligations.PaddingAddsOneSlot
  intro ver layer bri sri m s hs hv
  obtain ⟨hw, hkbps, hhz⟩ := decoded_cells_eq (w := hdrWord 0x7FF ver layer bri sri { m with pad := 1 }) hv
    (by simp only [fSync_hdrWord]) (by simp only [fVer_hdrWord]) (by simp only [fLayer_hdrWord])
    (by simp only [fBri_hdrWord]) (by simp only [fSri_hdrWord])
  obtain ⟨-, hflen, -⟩ := lengths_of_hasLength hv
  obtain ⟨-, hflen', -⟩ := lengths_of_hasLength hw
  rw [fLayer_hdrWord, fPad_hdrWord] at hflen hflen'
  refine ⟨_, _, exec_decode_of_afterReset _ hs, exec_decode_of_afterReset _ hs, ?_⟩
  calc (decoded (hdrWord 0x7FF ver layer bri sri { m with pad := 1 })).outFlen.toNat
    _ = lengthRule layer _ _ 1 := hflen'
    _ = lengthRule layer _ _ 0 + (if layer = 0b11 then 4 else 1) := lengthRule_pad_one ..
    _ = (decoded (hdrWord 0x7FF ver layer bri sri { m with pad := 0 })).outFlen.toNat + (if layer = 0b11 then 4 else 1) := by
      rw [hkbps, hhz, ← hflen]

end Sys2Proof
end

section
/-! PROOFS of 60_exceptions.md: the error report and the frame scanner. A word that fails leaves the column 'on fail' of 10_state.md
R28 with its earliest error (`decoded_of_error`). A call of next_frame() is one of three: an Exhausted host, a header read that falls
short (`nextFrame_of_short_header`), and a header with what its DECODE leaves (`nextFrame_of_header`, and `nextFrame_of_wordBytes` after
the first RESET); the statements about the host follow from these equations. -/

namespace Sys2Proof

open Machine Claims

/-! ### Errors and free format of a DECODE -/

/-- A word that fails leaves the error report of a kind whose code is that of the earliest failing step (60_exceptions.md R201,
R206). -/
theorem decoded_of_error {w : Word} (hw : ¬ Decodable w) :
    ∃ e, errCode e = earliestError w ∧ decoded w = errorRegs w (errCode e) := by
  obtain ⟨e, hregs⟩ := decoded_of_not_decodable hw
  exact ⟨e, by rw [← decoded_outErr, hregs]; rfl, hregs⟩

/-- Settles O16: the edge writes `decoded w`, which for a word that fails is the report of `decoded_of_error`. -/
theorem failedDecodeReportsEarliestError : Obligations.FailedDecodeReportsEarliestError := by
  unfold Obligations.FailedDecodeReportsEarliestError
  intro w s hs hw
  obtain ⟨e, hcode, hregs⟩ := decoded_of_error hw
  rw [exec_decode_of_afterReset w hs, hregs, ← hcode]
  exact ⟨rfl, errCode_ne_zero e⟩

/-- Where steps 1 to 5 pass and step 6 fails, the error is BadSamplingRate (41_header_decode.md R129, R131). -/
theorem earliestError_of_badRate {w : Word} (hsync : fSync w = 0x7FF) (hlayer : fLayer w ≠ 0b00) (h15 : fBri w ≠ 15)
    (hrate : fVer w = 0b01 ∨ fSri w = 3) : earliestError w = 4 := by
  rw [earliestError, if_neg (not_not.2 hsync), if_neg hlayer, if_neg h15, if_pos hrate]

/-- Settles O20: where step 6 fails the word leaves an error report, elsewhere it is decodable and leaves the free-format column. -/
theorem freeFormatHasNoLength : Obligations.FreeFormatHasNoLength := by
  unfold Obligations.FreeFormatHasNoLength
  intro w s hs hsync hlayer h0
  have h15 : fBri w ≠ 15 := by rw [h0]; decide
  refine ⟨_, exec_decode_of_afterReset w hs, ?_⟩
  by_cases hrate : fVer w = 0b01 ∨ fSri w = 3
  · have hw : ¬ Decodable w := fun ⟨_, hver, _, _, h3⟩ => hrate.elim hver h3
    obtain ⟨e, hcode, hregs⟩ := decoded_of_error hw
    rw [if_pos hrate, edgeTo, hregs, hcode, earliestError_of_badRate hsync hlayer h15 hrate]
    exact ⟨rfl, rfl⟩
  · obtain ⟨hver, h3⟩ := not_or.1 hrate
    obtain ⟨h, -, hregs⟩ := decoded_of_freeFormat ⟨hsync, hver, hlayer, h15, h3⟩ h0
    rw [if_neg hrate, edgeTo, hregs]
    exact ⟨rfl, rfl, rfl, rfl, rfl, rfl⟩

/-! ### The edges -/

/-- Settles O40: of the operations other than DECODE, a RESET clears `out_err` and an IDLE keeps it. -/
theorem errorsComeFromDecodeAlone : Obligations.ErrorsComeFromDecodeAlone := by
  unfold Obligations.ErrorsComeFromDecodeAlone
  intro s p hs hp hdecode
  have hstep := step_of_edge hp
  rcases sampled_cases p with ⟨-, hop⟩ | ⟨hr, hv, -⟩ | ⟨hr, -, hop⟩
  · exact ⟨resetEdge s, by rw [hstep, hop]; rfl, fun _ => rfl⟩
  · exact absurd ⟨hr, hv⟩ hdecode
  · have hs : AfterReset s := hs.resolve_right (by simp [hr])
    exact ⟨edgeTo s (idleRegs s.regs), by rw [hstep, hop, exec_idle_of_afterReset hs], id⟩

/-- The event listed first, where only clean edges are listed, is an edge. -/
theorem nextEvent_of_cleanFeed {s : State} (hclean : CleanFeed s) (hfeed : s.feed ≠ []) : ∃ p, nextEvent s = .edge p := by
  obtain ⟨e, es, he⟩ := List.exists_cons_of_ne_nil hfeed
  have hedge : isEdge e = true := hclean e (he ▸ List.mem_cons_self)
  rw [nextEvent_cons he]
  cases e with
  | edge p => exact ⟨p, rfl⟩
  | _ => cases hedge

/-- Settles O41, by induction on the number of steps: each is an edge, and no instruction changes more than O42 says. -/
theorem noInputStopsTheMachine : Obligations.NoInputStopsTheMachine := by
  unfold Obligations.NoInputStopsTheMachine
  intro n
  induction n with
  | zero => exact fun s _ _ => ⟨s, rfl, rfl, rfl, fun hs => ⟨rfl, hs⟩⟩
  | succ n ih =>
    intro s hclean hn
    obtain ⟨p, hp⟩ := nextEvent_of_cleanFeed hclean (List.ne_nil_of_length_pos (by omega))
    obtain ⟨t, hexec, hhost, hfeed, hreset, -⟩ := instructionsChangeRegistersAlone (sampled p) s
    have htclean : CleanFeed t := fun e he => hclean e (List.mem_of_mem_tail (hfeed ▸ he))
    have hlength : n ≤ t.feed.length := by rw [hfeed, List.length_tail]; omega
    obtain ⟨u, hrun, huhost, hufeed, hureset⟩ := ih t htclean hlength
    refine ⟨u, (run_succ_of_step ((step_of_edge hp).trans hexec) n).trans hrun, huhost.trans hhost, ?_, fun hs => ?_⟩
    · rw [hufeed, hfeed, List.drop_tail]
    · obtain ⟨hdraws, ht⟩ := hreset (.inr hs)
      obtain ⟨hudraws, hu⟩ := hureset ht
      exact ⟨hudraws.trans hdraws, hu⟩

/-! ### Reads of the byte source (60_exceptions.md R221, log 13) -/

/-- The host after a read that delivers its `n` bytes. -/
def advance (n : Nat) (h : Scanner) : Scanner :=
  { h with pos := h.pos + n, src := { h.src with bytes := h.src.bytes.drop n } }

/-- The host after a read that falls short: an end of the source consumes what is left, a failure nothing. -/
def readEnd (h : Scanner) : Scanner :=
  match h.src.ending with
  | .eos => advance h.src.bytes.length h
  | .ioErr _ => h

/-- The outcome of a read that falls short. -/
def shortResult (src : ByteSource) : ReadResult :=
  match src.ending with
  | .eos => if src.bytes = [] then .eos else .short src.bytes.length
  | .ioErr e => .ioErr e

theorem srcRead_of_le {n : Nat} {h : Scanner} (hn : n ≤ h.src.bytes.length) :
    srcRead n h = (.full (h.src.bytes.take n), advance n h) := if_pos hn

theorem advance_of_append {h : Scanner} {front rest : List Byte} (hbytes : h.src.bytes = front ++ rest) :
    advance front.length h = { h with pos := h.pos + front.length, src := { h.src with bytes := rest } } := by
  rw [advance, hbytes, List.drop_left]

theorem advance_of_nil {h : Scanner} (hb : h.src.bytes = []) : advance h.src.bytes.length h = h := by
  rw [hb, advance]; rfl

theorem readEnd_of_ioErr {h : Scanner} {e : Nat} (he : h.src.ending = .ioErr e) : readEnd h = h := by
  rw [readEnd, he]

theorem readEnd_of_eos {h : Scanner} (he : h.src.ending = .eos) : readEnd h = advance h.src.bytes.length h := by
  rw [readEnd, he]

theorem srcRead_of_lt {n : Nat} {h : Scanner} (hn : h.src.bytes.length < n) :
    srcRead n h = (shortResult h.src, readEnd h) := by
  rcases srcRead_cases n h with ⟨hle, -⟩ | ⟨-, e, he, hr⟩ | ⟨-, he, hb, hr⟩ | ⟨-, he, hb, hr⟩
  · exact absurd hn (Nat.not_lt.2 hle)
  · rw [hr, readEnd_of_ioErr he, shortResult, he]
  · rw [hr, readEnd_of_eos he, advance_of_nil hb, shortResult, he]
    simp only [if_pos hb]
  · rw [hr, readEnd_of_eos he, shortResult, he]
    simp only [if_neg hb, advance, List.drop_length]

/-- The position only grows (60_exceptions.md R222). -/
theorem pos_le_readEnd (h : Scanner) : h.pos ≤ (readEnd h).pos := by
  cases he : h.src.ending with
  | eos => rw [readEnd_of_eos he]; exact Nat.le_add_right ..
  | ioErr e => rw [readEnd_of_ioErr he]

/-! ### The payload read (60_exceptions.md R226) -/

/-- The error of a payload read that falls short. -/
def shortPayloadError : SourceEnd → ScanError
  | .eos => .truncated
  | .ioErr e => .io e

theorem readPayload_of_le {s : State} (hn : s.regs.outPlen.toNat ≤ s.host.src.bytes.length) :
    readPayload s = ({ s with host := advance s.regs.outPlen.toNat s.host },
      .frame s.regs (s.host.src.bytes.take s.regs.outPlen.toNat)) := by
  rw [readPayload, srcRead_of_le hn]

/-- The whole payload is there. -/
theorem readPayload_of_append {s : State} {p rest : List Byte} (hp : p.length = s.regs.outPlen.toNat)
    (hbytes : s.host.src.bytes = p ++ rest) :
    readPayload s = ({ s with host := { s.host with pos := s.host.pos + p.length, src := { s.host.src with bytes := rest } } },
      .frame s.regs p) := by
  have hn : p.length ≤ s.host.src.bytes.length := by rw [hbytes, List.length_append]; exact Nat.le_add_right ..
  rw [readPayload_of_le (hp ▸ hn), ← hp, advance_of_append hbytes, hbytes, List.take_left]

theorem readPayload_of_lt {s : State} (hn : s.host.src.bytes.length < s.regs.outPlen.toNat) :
    readPayload s = (exhaust { s with host := readEnd s.host }, .err (shortPayloadError s.host.src.ending)) := by
  rw [readPayload, srcRead_of_lt hn, shortResult]
  cases s.host.src.ending with
  | ioErr e => rfl
  | eos => by_cases hb : s.host.src.bytes = [] <;> simp [hb, shortPayloadError]

/-! ### After the DECODE (60_exceptions.md R225) -/

theorem afterDecode_of_error {s : State} (herr : s.regs.outErr ≠ 0) :
    afterDecode s = (exhaust s, .err (.invalidHeader (kindOf s.regs.outErr))) := if_pos herr

theorem afterDecode_of_free {s : State} (herr : s.regs.outErr = 0) (hfree : s.regs.outFree = 1) :
    afterDecode s = (exhaust s, .err .unsupportedFreeFormat) := by
  rw [afterDecode, if_neg (not_not.2 herr), if_pos hfree]

theorem afterDecode_of_length {s : State} (herr : s.regs.outErr = 0) (hfree : s.regs.outFree ≠ 1) :
    afterDecode s = readPayload s := by
  rw [afterDecode, if_neg (not_not.2 herr), if_neg hfree]

/-- Whatever the registers hold, the host alone changes; the answer is a frame, or an error that ends the scan. -/
theorem afterDecode_cases (s : State) : ∃ h, s.host.pos ≤ h.pos ∧
    ((∃ p, afterDecode s = ({ s with host := h }, .frame s.regs p)) ∨
     (∃ e, afterDecode s = (exhaust { s with host := h }, .err e))) := by
  by_cases herr : s.regs.outErr = 0
  case neg => exact ⟨s.host, le_rfl, .inr ⟨_, afterDecode_of_error herr⟩⟩
  by_cases hfree : s.regs.outFree = 1
  case pos => exact ⟨s.host, le_rfl, .inr ⟨_, afterDecode_of_free herr hfree⟩⟩
  rw [afterDecode_of_length herr hfree]
  rcases le_or_gt s.regs.outPlen.toNat s.host.src.bytes.length with hn | hn
  · exact ⟨_, Nat.le_add_right .., .inl ⟨_, readPayload_of_le hn⟩⟩
  · exact ⟨_, pos_le_readEnd s.host, .inr ⟨_, readPayload_of_lt hn⟩⟩

/-! ### A call of next_frame() (60_exceptions.md R223) -/

/-- The answer to a header read that falls short (60_exceptions.md R224). -/
def shortHeaderAnswer (src : ByteSource) : Answer :=
  match src.ending with
  | .eos => if src.bytes = [] then .none else .err .truncated
  | .ioErr e => .err (.io e)

theorem shortHeaderAnswer_of_eos {src : ByteSource} (he : src.ending = .eos) :
    shortHeaderAnswer src = if src.bytes = [] then .none else .err .truncated := by
  rw [shortHeaderAnswer, he]

theorem shortHeaderAnswer_of_ioErr {src : ByteSource} {e : Nat} (he : src.ending = .ioErr e) :
    shortHeaderAnswer src = .err (.io e) := by
  rw [shortHeaderAnswer, he]

/-- The state after the header read and the DECODE edge of a header of word `w`. -/
def headerDecoded (w : Word) (s : State) : State :=
  clock (decoded w) (present w { s with host := advance 4 s.host })

@[simp] theorem headerDecoded_feed (w : Word) (s : State) : (headerDecoded w s).feed = s.feed := by
  rw [headerDecoded, clock_feed]; rfl
@[simp] theorem headerDecoded_host (w : Word) (s : State) : (headerDecoded w s).host = advance 4 s.host := by
  rw [headerDecoded, clock_host]; rfl
@[simp] theorem headerDecoded_resetDone (w : Word) (s : State) : (headerDecoded w s).resetDone = s.resetDone := by
  rw [headerDecoded, clock_resetDone]; rfl

/-- After the first RESET the chip holds the decode of the header, and nothing else but the host has changed. -/
theorem headerDecoded_of_afterReset (w : Word) {s : State} (hs : AfterReset s) :
    headerDecoded w s = { s with regs := decoded w, host := advance 4 s.host } :=
  clock_of_reset _ hs

/-- Settles O47: the call looks at the mode first. -/
theorem exhaustedReadsNothing : Obligations.ExhaustedReadsNothing := by
  unfold Obligations.ExhaustedReadsNothing
  intro s hs
  rw [nextFrame, hs]

theorem nextFrame_of_short_header {s : State} (hs : Scanning s) (hn : s.host.src.bytes.length < 4) :
    nextFrame s = .next (exhaust { s with host := readEnd s.host }, shortHeaderAnswer s.host.src) := by
  rw [nextFrame, hs, srcRead_of_lt hn, shortResult, shortHeaderAnswer]
  cases he : s.host.src.ending with
  | ioErr e => rfl
  | eos => by_cases hb : s.host.src.bytes = [] <;> simp [hb]

theorem nextFrame_of_header {s : State} (hs : Scanning s) (hn : 4 ≤ s.host.src.bytes.length) :
    nextFrame s = .next (afterDecode (headerDecoded (headerWordOf (s.host.src.bytes.take 4)) s)) := by
  rw [nextFrame, hs, srcRead_of_le hn]
  simp only [performDecode_clock]
  rfl

/-- What a call does whatever the state: it takes no listed event, no free value after the first RESET and no byte back, it ends the
scan unless it returns a frame, and while Scanning its clean end is that of the source. -/
structure CallKeeps (s s' : State) (a : Answer) : Prop where
  feed : s'.feed = s.feed
  resetDone : s'.resetDone = s.resetDone
  draws : AfterReset s → s'.draws = s.draws
  pos : s.host.pos ≤ s'.host.pos
  ends : (∃ h p, a = .frame h p) ∨ s'.host.mode = .exhausted
  clean : Scanning s → a = .none → s.host.src.bytes = [] ∧ s.host.src.ending = .eos

/-- Only the end of an empty source answers a header read with `Ok(None)` (60_exceptions.md R224). -/
theorem shortHeaderAnswer_eq_none {src : ByteSource} (h : shortHeaderAnswer src = .none) :
    src.bytes = [] ∧ src.ending = .eos := by
  cases he : src.ending with
  | ioErr e => rw [shortHeaderAnswer_of_ioErr he] at h; cases h
  | eos =>
    rw [shortHeaderAnswer_of_eos he] at h
    by_cases hb : src.bytes = []
    · exact ⟨hb, rfl⟩
    · rw [if_neg hb] at h; cases h

theorem afterDecode_headerDecoded_keeps (w : Word) (s : State) :
    CallKeeps s (afterDecode (headerDecoded w s)).1 (afterDecode (headerDecoded w s)).2 := by
  have hdraws : AfterReset s → (headerDecoded w s).draws = s.draws := fun hs => by
    rw [headerDecoded_of_afterReset w hs]
  obtain ⟨h, hpos, hcases⟩ := afterDecode_cases (headerDecoded w s)
  have hpos : s.host.pos ≤ h.pos := by
    rw [headerDecoded_host] at hpos
    exact (Nat.le_add_right ..).trans hpos
  rcases hcases with ⟨p, heq⟩ | ⟨e, heq⟩ <;> rw [heq]
  · exact ⟨headerDecoded_feed w s, headerDecoded_resetDone w s, hdraws, hpos, .inl ⟨_, _, rfl⟩, fun _ h => nomatch h⟩
  · exact ⟨headerDecoded_feed w s, headerDecoded_resetDone w s, hdraws, hpos, .inr rfl, fun _ h => nomatch h⟩

theorem nextFrame_keeps (s : State) : ∃ s' a, nextFrame s = .next (s', a) ∧ CallKeeps s s' a := by
  cases hmode : s.host.mode with
  | exhausted =>
    exact ⟨s, .none, exhaustedReadsNothing s hmode, rfl, rfl, fun _ => rfl, le_rfl, .inr hmode,
      fun hs => nomatch hs.symm.trans hmode⟩
  | scanning =>
    rcases lt_or_ge s.host.src.bytes.length 4 with hn | hn
    · exact ⟨_, _, nextFrame_of_short_header hmode hn, rfl, rfl, fun _ => rfl, pos_le_readEnd s.host, .inr rfl,
        fun _ => shortHeaderAnswer_eq_none⟩
    · exact ⟨_, _, nextFrame_of_header hmode hn, afterDecode_headerDecoded_keeps _ s⟩

/-- Settles O46, by what every call keeps. -/
theorem nextFrameAlwaysAnswers : Obligations.NextFrameAlwaysAnswers := by
  unfold Obligations.NextFrameAlwaysAnswers
  intro s
  obtain ⟨s', a, hcall, hkeeps⟩ := nextFrame_keeps s
  exact ⟨s', a, hcall, hkeeps.feed, hkeeps.resetDone, hkeeps.draws⟩

/-- Settles O52, by what every call keeps. -/
theorem positionOnlyGrows : Obligations.PositionOnlyGrows := by
  unfold Obligations.PositionOnlyGrows
  intro s
  obtain ⟨s', a, hcall, hkeeps⟩ := nextFrame_keeps s
  exact ⟨s', a, hcall, hkeeps.pos, hkeeps.ends⟩

/-! ### A header read that falls short -/

/-- Settles O55: the answer to a failing source does not depend on the bytes before the failure. -/
theorem failingHeaderReadIsIo : Obligations.FailingHeaderReadIsIo := by
  unfold Obligations.FailingHeaderReadIsIo
  intro s e hs hn he
  have hcall := nextFrame_of_short_header hs hn
  rw [shortHeaderAnswer_of_ioErr he] at hcall
  exact ⟨_, hcall, rfl⟩

/-- Settles O48: `Ok(None)` by what every call keeps, the other answers by the bytes left and the source's ending. -/
theorem cleanEndOnlyAtABoundary : Obligations.CleanEndOnlyAtABoundary := by
  unfold Obligations.CleanEndOnlyAtABoundary
  intro s hs
  have empty_lt (hb : s.host.src.bytes = []) : s.host.src.bytes.length < 4 := by rw [hb]; decide
  refine ⟨?onlyThere, ?clean, ?truncated, ?failing, ?partialFailing⟩
  case onlyThere =>
    intro s' hnone
    obtain ⟨t, a, hcall, hkeeps⟩ := nextFrame_keeps s
    cases hcall.symm.trans hnone
    exact hkeeps.clean hs rfl
  case clean =>
    intro hb he
    have hcall := nextFrame_of_short_header hs (empty_lt hb)
    rw [shortHeaderAnswer_of_eos he, if_pos hb] at hcall
    exact ⟨_, hcall, rfl⟩
  case truncated =>
    intro hpos hn he
    have hcall := nextFrame_of_short_header hs hn
    rw [shortHeaderAnswer_of_eos he, if_neg (List.ne_nil_of_length_pos hpos)] at hcall
    exact ⟨_, hcall, rfl⟩
  case failing => exact fun e hb he => failingHeaderReadIsIo s e hs (empty_lt hb) he
  case partialFailing =>
    intro e _ hn he
    obtain ⟨s', hcall⟩ := failingHeaderReadIsIo s e hs hn he
    exact ⟨s', _, hcall⟩

/-! ### A header after the first RESET -/

/-- The host's word of a header's bytes is the word (20_memory.md R52). -/
theorem headerWordOf_wordBytes (w : Word) (rest : List Byte) : headerWordOf ((wordBytes w ++ rest).take 4) = w :=
  packWord_bytes w

/-- The state after the header read and the DECODE of `w`, with `rest` after the header. -/
def headerRead (w : Word) (rest : List Byte) (s : State) : State :=
  { s with
    regs := decoded w
    host := { s.host with pos := s.host.pos + 4, src := { s.host.src with bytes := rest } } }

theorem nextFrame_of_wordBytes {w : Word} {rest : List Byte} {s : State} (hs : ScanningReset s)
    (hbytes : s.host.src.bytes = wordBytes w ++ rest) : nextFrame s = .next (afterDecode (headerRead w rest s)) := by
  obtain ⟨hscan, hreset⟩ := hs
  have hadvance : advance 4 s.host = _ := advance_of_append hbytes
  have hn : 4 ≤ s.host.src.bytes.length := by rw [hbytes, List.length_append]; exact Nat.le_add_right ..
  rw [nextFrame_of_header hscan hn, hbytes, headerWordOf_wordBytes, headerDecoded_of_afterReset w hreset, hadvance]
  rfl

/-- Settles O50: the registers after the DECODE are the error report, or the free-format column. -/
theorem headerErrorsEndTheScan : Obligations.HeaderErrorsEndTheScan := by
  unfold Obligations.HeaderErrorsEndTheScan
  intro w rest s hs hbytes
  rw [nextFrame_of_wordBytes hs hbytes]
  constructor
  · intro hw
    obtain ⟨e, hcode, hregs⟩ := decoded_of_error hw
    have herr : (headerRead w rest s).regs.outErr = errCode e := congrArg Regs.outErr hregs
    have hcall := afterDecode_of_error (herr.trans_ne (errCode_ne_zero e))
    rw [herr, kindOf_errCode] at hcall
    exact ⟨_, e, congrArg _ hcall, hcode, rfl, rfl⟩
  · intro hw h0
    obtain ⟨h, -, hregs⟩ := decoded_of_freeFormat hw h0
    have hcall := afterDecode_of_free (s := headerRead w rest s) (congrArg Regs.outErr hregs) (congrArg Regs.outFree hregs)
    exact ⟨_, congrArg _ hcall, rfl, rfl⟩

/-- After a header with an indexed bitrate the host reads the payload. -/
theorem nextFrame_of_hasLength {w : Word} {rest : List Byte} {s : State} (hs : ScanningReset s) (hw : HasLength w)
    (hbytes : s.host.src.bytes = wordBytes w ++ rest) : nextFrame s = .next (readPayload (headerRead w rest s)) := by
  obtain ⟨k, h, -, -, hregs⟩ := decoded_of_hasLength hw
  have hfree : (headerRead w rest s).regs.outFree = 0 := congrArg Regs.outFree hregs
  rw [nextFrame_of_wordBytes hs hbytes,
    afterDecode_of_length (congrArg Regs.outErr hregs) (hfree.trans_ne (by decide))]

/-- Settles O51: the payload read after the header falls short. -/
theorem shortPayloadEndsTheScan : Obligations.ShortPayloadEndsTheScan := by
  unfold Obligations.ShortPayloadEndsTheScan
  intro w rest s hs hw hbytes hshort
  have hcall := nextFrame_of_hasLength hs hw hbytes
  rw [readPayload_of_lt (s := headerRead w rest s) hshort] at hcall
  exact ⟨_, exhaust_mode _, hcall⟩

/-- Settles O49: the payload read after the header delivers `out_plen` bytes, which with the header are `out_flen`. -/
theorem successfulCallConsumesOneFrame : Obligations.SuccessfulCallConsumesOneFrame := by
  unfold Obligations.SuccessfulCallConsumesOneFrame
  rintro w p rest s hs ⟨hw : HasLength w, hplen : p.length = (decoded w).outPlen.toNat⟩ hbytes
  obtain ⟨-, -, -, -, hflen⟩ := lengths_of_hasLength hw
  have hcall := nextFrame_of_hasLength hs hw (hbytes.trans (List.append_assoc ..))
  rw [readPayload_of_append (s := headerRead w (p ++ rest) s) hplen rfl] at hcall
  refine ⟨_, hcall, hs, rfl, ?_, rfl, rfl⟩
  simp only [headerRead]
  omega

/-! ### A whole source -/

theorem nextFrames_succ {n : Nat} {s s' s'' : State} {a : Answer} {as : List Answer} (hcall : nextFrame s = .next (s', a))
    (hcalls : nextFrames n s' = .next (s'', as)) : nextFrames (n + 1) s = .next (s'', a :: as) := by
  simp only [nextFrames, hcall, hcalls]

/-- Settles O53, by induction on the frames: with none left the header read falls short, and a frame is one call of O49. -/
theorem scanReturnsEveryFrame : Obligations.ScanReturnsEveryFrame := by
  unfold Obligations.ScanReturnsEveryFrame
  intro frames left
  induction frames with
  | nil =>
    rintro s - hleft ⟨hscan, -⟩ hsrc
    have hbytes : s.host.src.bytes = left := congrArg ByteSource.bytes hsrc
    have hend : s.host.src.ending = .eos := congrArg ByteSource.ending hsrc
    have hcall := nextFrame_of_short_header hscan (hbytes ▸ hleft)
    rw [shortHeaderAnswer_of_eos hend, readEnd_of_eos hend, hbytes] at hcall
    exact ⟨_, nextFrames_succ hcall rfl, rfl, rfl⟩
  | cons f frames ih =>
    intro s hvalid hleft hs hsrc
    obtain ⟨hf, hframes⟩ := List.forall_mem_cons.1 hvalid
    have hbytes : s.host.src.bytes = frameBytes f ++ (frames.flatMap frameBytes ++ left) := by
      rw [hsrc, List.flatMap_cons, List.append_assoc]
    obtain ⟨t, hcall, ht, -, hpos, htbytes, htend⟩ := successfulCallConsumesOneFrame f.1 f.2 _ s hs hf hbytes
    have htend : t.host.src.ending = .eos := htend.trans (congrArg ByteSource.ending hsrc)
    have htsrc : t.host.src = { bytes := frames.flatMap frameBytes ++ left, ending := .eos } := by
      rw [← htbytes, ← htend]
    obtain ⟨u, hcalls, hmode, hupos⟩ := ih t hframes hleft ht htsrc
    refine ⟨u, nextFrames_succ hcall hcalls, hmode, ?_⟩
    rw [hupos, hpos, List.map_cons, List.sum_cons]
    omega

end Sys2Proof
end

section
/-! PROOFS of 70_reset_and_hazards.md: power-up, RESET and the edges between them. Before the first RESET every edge that is no RESET
is `drawAll` (`step_of_unreset`), so a run of such edges is `drawAll` iterated (`run_of_unreset`), whose end is known in closed form
(`drawAll_iterate_succ`); a RESET edge is `resetTo` in every state (`step_of_reset`). -/

namespace Sys2Proof

open Machine Claims

/-! ### One step -/

/-- RESET is the same in every state (70_reset_and_hazards.md R240). -/
theorem exec_reset (s : State) : exec .reset s = .next (resetTo s) := rfl

/-- Before the first RESET every other instruction draws the registers (70_reset_and_hazards.md R242, log 25). -/
theorem exec_of_unreset {i : Instr} (hi : i ≠ .reset) {s : State} (hs : ¬ AfterReset s) : exec i s = .next (drawAll s) := by
  rcases exec_cases i s with ⟨hreset, -⟩ | ⟨-, r, he⟩
  · exact absurd hreset hi
  · rw [he, clock_of_unreset r (Bool.eq_false_iff.2 hs)]

/-- The ports select RESET exactly if rst = 1 (40_interface_ops.md R100). -/
theorem sampled_eq_reset_iff (p : Ports) : sampled p = .reset ↔ p.rst = 1 := by
  rcases sampled_cases p with ⟨hr, hop⟩ | ⟨hr, -, hop⟩ | ⟨hr, -, hop⟩ <;> simp [hr, hop]

/-- An edge with rst = 1 is a RESET whatever else the ports carry (70_reset_and_hazards.md R241). -/
theorem step_of_reset {s : State} {p : Ports} (hp : nextEvent s = .edge p) (hr : p.rst = 1) : step s = .next (resetTo s) := by
  rw [step_of_edge hp, (sampled_eq_reset_iff p).2 hr, exec_reset]

theorem step_of_unreset {s : State} (hs : ¬ AfterReset s) {p : Ports} (hp : nextEvent s = .edge p) (hr : p.rst = 0) :
    step s = .next (drawAll s) := by
  have hop : sampled p ≠ .reset := fun h => absurd ((sampled_eq_reset_iff p).1 h) (by simp [hr])
  rw [step_of_edge hp, exec_of_unreset hop hs]

theorem step_of_powerCycle {s : State} (h : nextEvent s = .powerCycle) : step s = .next (powerUp s) := by
  simp only [step, h]

/-- Settles O12: the power cycle is `powerUp`, and the RESET edge after it clears what was drawn. -/
theorem resetAfterPowerUpClearsTheDraws : Obligations.ResetAfterPowerUpClearsTheDraws := by
  unfold Obligations.ResetAfterPowerUpClearsTheDraws
  intro s p es hfeed hr
  have hup := step_of_powerCycle (nextEvent_cons hfeed)
  have hupfeed : (powerUp s).feed = .edge p :: es := congrArg List.tail hfeed
  have hreset := step_of_reset (nextEvent_cons hupfeed) hr
  constructor
  · rw [hup, ← hupfeed]; rfl
  · rw [run_succ_of_step hup, run_succ_of_step hreset, resetTo, hupfeed]; rfl

/-- Settles O56, by `exec_of_unreset` and `exec_reset`. -/
theorem unresetEdgesDrawEveryRegister : Obligations.UnresetEdgesDrawEveryRegister := by
  unfold Obligations.UnresetEdgesDrawEveryRegister
  intro s hs
  exact ⟨fun i hi => exec_of_unreset hi hs, exec_reset s⟩

/-! ### Any number of edges before the first RESET -/

/-- The next `n` events are edges with rst = 0: they are listed so, or the list ends before (70_reset_and_hazards.md R244). -/
def NoResetWithin (n : Nat) (s : State) : Prop := ∀ e ∈ s.feed.take n, ∃ p, e = .edge p ∧ p.rst = 0

theorem noResetWithin_of_nil {s : State} (hfeed : s.feed = []) (n : Nat) : NoResetWithin n s := by
  simp [NoResetWithin, hfeed]

theorem noResetWithin_of_ports {s : State} {ps : List Ports} {es : List Event} (hfeed : s.feed = ps.map .edge ++ es)
    (hps : ∀ p ∈ ps, p.rst = 0) : NoResetWithin ps.length s := by
  intro e he
  rw [hfeed, List.take_left' (List.length_map _)] at he
  obtain ⟨p, hp, rfl⟩ := List.mem_map.1 he
  exact ⟨p, rfl, hps p hp⟩

theorem NoResetWithin.nextEvent {n : Nat} {s : State} (h : NoResetWithin (n + 1) s) :
    ∃ p, nextEvent s = .edge p ∧ p.rst = 0 := by
  rcases hfeed : s.feed with _ | ⟨e, es⟩
  · exact ⟨idlePorts, nextEvent_nil hfeed, rfl⟩
  · rw [nextEvent_cons hfeed]
    exact h e (by rw [hfeed, List.take_succ_cons]; exact List.mem_cons_self)

theorem NoResetWithin.drawAll {n : Nat} {s : State} (h : NoResetWithin (n + 1) s) : NoResetWithin n (drawAll s) := by
  intro e he
  rw [drawAll_feed, ← List.drop_one, List.take_drop, Nat.add_comm 1 n] at he
  exact h e (List.mem_of_mem_drop he)

/-- Before the first RESET, `n` edges with rst = 0 are `n` draws, and the run goes on from there. -/
theorem run_of_unreset {n : Nat} {s : State} (hs : ¬ AfterReset s) (h : NoResetWithin n s) (k : Nat) :
    Host.Core.run core (n + k) s = Host.Core.run core k (drawAll^[n] s) := by
  induction n generalizing s with
  | zero => rw [Nat.zero_add]; rfl
  | succ n ih =>
    obtain ⟨p, hp, hr⟩ := h.nextEvent
    calc Host.Core.run core (n + 1 + k) s
        = Host.Core.run core (n + k + 1) s := by rw [Nat.add_right_comm]
      _ = Host.Core.run core (n + k) (drawAll s) := run_succ_of_step (step_of_unreset hs hp hr) _
      _ = Host.Core.run core k (drawAll^[n + 1] s) := ih hs h.drawAll

/-- After some draws in a row the registers are those of the last one. -/
theorem drawAll_iterate_succ (n : Nat) (s : State) : drawAll^[n + 1] s =
    { s with regs := powerUpRegs (s.draws + n), feed := s.feed.drop (n + 1), draws := s.draws + n + 1 } := by
  induction n with
  | zero => simp [drawAll]
  | succ n ih => rw [Function.iterate_succ_apply', ih, drawAll, List.tail_drop]; rfl

/-- A power cycle counts among the draws after it: it is one that also forgets the RESETs before it (log 8). -/
theorem drawAll_iterate_powerUp (n : Nat) (s : State) : drawAll^[n] (powerUp s) =
    { s with regs := powerUpRegs (s.draws + n), feed := s.feed.drop (n + 1), draws := s.draws + n + 1, resetDone := false } :=
  drawAll_iterate_succ n { s with resetDone := false }

/-- Settles O57: the power cycle and the edges after it are draws in a row (`drawAll_iterate_powerUp`), and the RESET clears the last
one. -/
theorem firstResetEndsTheDraws : Obligations.FirstResetEndsTheDraws := by
  unfold Obligations.FirstResetEndsTheDraws
  intro ps q es s hps hq hfeed
  have hup := step_of_powerCycle (nextEvent_cons hfeed)
  have hupfeed : (powerUp s).feed = ps.map .edge ++ .edge q :: es := congrArg List.tail hfeed
  have hunreset : ¬ AfterReset (powerUp s) := Bool.false_ne_true
  have hdrawn := drawAll_iterate_powerUp ps.length s
  have hrun : ∀ k, Host.Core.run core (ps.length + k + 1) s = Host.Core.run core k (drawAll^[ps.length] (powerUp s)) :=
    fun k => (run_succ_of_step hup _).trans (run_of_unreset hunreset (noResetWithin_of_ports hupfeed hps) k)
  have hrest : (drawAll^[ps.length] (powerUp s)).feed = .edge q :: es := by
    rw [hdrawn, hfeed, List.cons_append, List.drop_succ_cons, List.drop_left' (List.length_map _)]
  have hreset := step_of_reset (nextEvent_cons hrest) hq
  refine ⟨_, resetTo (drawAll^[ps.length] (powerUp s)), hrun 0, ?_, ?_, ?_, rfl, rfl, congrArg List.tail hrest⟩
  · rw [hdrawn]; exact Bool.false_ne_true
  · rw [hdrawn]
  · exact (hrun 1).trans (run_succ_of_step hreset 0)

/-! ### Past the last listed event -/

theorem run_of_step_self {s : State} (h : step s = .next s) (n : Nat) : Host.Core.run core n s = .next s := by
  induction n with
  | zero => rfl
  | succ n ih => rw [run_succ_of_step h, ih]

/-- Settles O10: with nothing listed the ports carry rst = 0 and in_valid = 0, which select IDLE. -/
theorem noWordListedIsIdle : Obligations.NoWordListedIsIdle := by
  unfold Obligations.NoWordListedIsIdle
  intro s hfeed
  rw [step_of_edge (nextEvent_nil hfeed), sampled_idlePorts]

/-- With nothing listed a step after the first RESET lowers `out_valid`, and nothing else changes. -/
theorem step_of_nil_of_afterReset {s : State} (hs : AfterReset s) (hfeed : s.feed = []) :
    step s = .next { s with regs := idleRegs s.regs } := by
  rw [noWordListedIsIdle s hfeed, exec_idle_of_afterReset hs, edgeTo, hfeed, List.tail_nil]

/-- Settles O54: after the first RESET one IDLE reaches a state that every further one keeps; before it the steps are draws in a row.
With `n` split into 0 and a successor, the statement's `if` computes. -/
theorem runsPastTheListAreIdle : Obligations.RunsPastTheListAreIdle := by
  unfold Obligations.RunsPastTheListAreIdle
  rintro (_ | n) s hfeed
  · exact ⟨fun _ => rfl, fun _ => rfl⟩
  refine ⟨fun hs => ?_, fun hs => ?_⟩
  · have hkept := step_of_nil_of_afterReset (s := { s with regs := idleRegs s.regs }) hs hfeed
    exact (run_succ_of_step (step_of_nil_of_afterReset hs hfeed) n).trans (run_of_step_self hkept n)
  · have hrun := run_of_unreset hs (noResetWithin_of_nil hfeed (n + 1)) 0
    rw [drawAll_iterate_succ, hfeed, List.drop_nil, ← hfeed] at hrun
    exact hrun

/-! ### RESET, and the events outside the clean edges -/

/-- Settles O13: RESET is `resetTo`, whose registers are the zeros. -/
theorem resetClearsEveryRegister : Obligations.ResetClearsEveryRegister := by
  unfold Obligations.ResetClearsEveryRegister
  intro s
  exact ⟨resetTo s, exec_reset s, by simp only [resetTo, Regs.zero, and_self]⟩

/-- Settles O14, by `step_of_reset`. -/
theorem resetBeatsInValid : Obligations.ResetBeatsInValid := by
  unfold Obligations.ResetBeatsInValid
  intro s inValid w hp
  exact step_of_reset hp rfl

/-- Settles O11: at these three events the step has an arm of its own that reads nothing of the state. -/
theorem outsideEventsStopByName : Obligations.OutsideEventsStopByName := by
  unfold Obligations.OutsideEventsStopByName
  intro s
  refine ⟨fun h => ?_, fun h => ?_, fun h => ?_⟩ <;> simp only [step, h]

end Sys2Proof
end
